-- ==== Sys2Proof/Word.lean ====
section
/-! DEFINITION. The word types of the GCG synth core (00_scope.md R9, R10): bytes, 16-bit words, 32-bit
timer and noise words, and the 4-bit command and channel fields. -/

namespace Sys2Proof

/-- A byte: a level, a sample, a phase, a stream byte (00_scope.md R10). -/
abbrev Byte := BitVec 8

/-- A 16-bit word: a stream address, a word operand, a preset duration (00_scope.md R10). -/
abbrev Word := BitVec 16

/-- A 32-bit word: a SubTimer register or the noise generator's state (00_scope.md R9). -/
abbrev DWord := BitVec 32

/-- A nibble: the command number or the channel selector (00_scope.md R9, R10). -/
abbrev Nibble := BitVec 4

end Sys2Proof
end

