-- ==== Sys2Proof/Syntax.lean ====
section
/-! DEFINITION. The command set GCG-T16 (00_scope.md R1, 30_encoding.md R83): the 16 command names, their
formats and lengths, and one constructor of `Instr` per command. -/

namespace Sys2Proof

/-- The names of the 16 commands, in the order of the opcode table (30_encoding.md R83). -/
inductive Command where
  | noAction | setTempo | setWave | setVolume
  | setGlobalVolume | noteOn | noteOff | endOfStream
  | softwareReset | syncOscillator | resetOscillator | setADSR
  | jumpInFile | setDuty | directExec | setADSRValues
deriving DecidableEq, Repr

/-- The four operand formats (30_encoding.md R80). -/
inductive Format where
  /-- no operand -/
  | z
  /-- one byte -/
  | b
  /-- one word -/
  | w
  /-- word, word, byte, word -/
  | a
deriving DecidableEq, Repr

/-- The format of each command (30_encoding.md R80, R83). -/
def Command.format : Command → Format
  | .noAction | .noteOff | .endOfStream | .softwareReset | .resetOscillator => .z
  | .setWave | .setVolume | .setGlobalVolume | .noteOn | .syncOscillator | .setADSR | .setDuty
  | .directExec => .b
  | .setTempo | .jumpInFile => .w
  | .setADSRValues => .a

/-- The length in bytes of each format, the opcode byte included (30_encoding.md R80). -/
def Format.length : Format → Nat
  | .z => 1
  | .b => 2
  | .w => 3
  | .a => 8

/-- A decoded command. Every constructor keeps the channel selector and every operand bit of its encoding,
the ignored ones too (30_encoding.md R85, R86, R91), so that no bit is lost between bytes and syntax;
what is ignored is ignored by the meanings. -/
inductive Instr where
  /-- R210 -/
  | noAction (ch : Nibble)
  /-- R211; `w` in milliseconds -/
  | setTempo (ch : Nibble) (w : Word)
  /-- R212; `b` a waveform code -/
  | setWave (ch : Nibble) (b : Byte)
  /-- R213 -/
  | setVolume (ch : Nibble) (b : Byte)
  /-- R214 -/
  | setGlobalVolume (ch : Nibble) (b : Byte)
  /-- R215; the note is `b[6:0]` -/
  | noteOn (ch : Nibble) (b : Byte)
  /-- R216 -/
  | noteOff (ch : Nibble)
  /-- R217 -/
  | endOfStream (ch : Nibble)
  /-- R218 -/
  | softwareReset (ch : Nibble)
  /-- R219; the voice read is `b[3:0]` -/
  | syncOscillator (ch : Nibble) (b : Byte)
  /-- R220 -/
  | resetOscillator (ch : Nibble)
  /-- R221; `b` a preset index -/
  | setADSR (ch : Nibble) (b : Byte)
  /-- R222; `w` an absolute stream address -/
  | jumpInFile (ch : Nibble) (w : Word)
  /-- R223 -/
  | setDuty (ch : Nibble) (b : Byte)
  /-- R224; `b` the repeat count -/
  | directExec (ch : Nibble) (b : Byte)
  /-- R225, R87; attack, decay and release in milliseconds, `s` the sustain level -/
  | setADSRValues (ch : Nibble) (attack decay : Word) (s : Byte) (release : Word)
deriving DecidableEq, Repr

/-- The command a decoded command is (30_encoding.md R83). -/
def Instr.command : Instr → Command
  | .noAction _ => .noAction
  | .setTempo _ _ => .setTempo
  | .setWave _ _ => .setWave
  | .setVolume _ _ => .setVolume
  | .setGlobalVolume _ _ => .setGlobalVolume
  | .noteOn _ _ => .noteOn
  | .noteOff _ => .noteOff
  | .endOfStream _ => .endOfStream
  | .softwareReset _ => .softwareReset
  | .syncOscillator _ _ => .syncOscillator
  | .resetOscillator _ => .resetOscillator
  | .setADSR _ _ => .setADSR
  | .jumpInFile _ _ => .jumpInFile
  | .setDuty _ _ => .setDuty
  | .directExec _ _ => .directExec
  | .setADSRValues _ _ _ _ _ => .setADSRValues

/-- The channel selector of the opcode byte (30_encoding.md R81). -/
def Instr.channel : Instr → Nibble
  | .noAction ch | .setTempo ch _ | .setWave ch _ | .setVolume ch _ | .setGlobalVolume ch _
  | .noteOn ch _ | .noteOff ch | .endOfStream ch | .softwareReset ch | .syncOscillator ch _
  | .resetOscillator ch | .setADSR ch _ | .jumpInFile ch _ | .setDuty ch _ | .directExec ch _
  | .setADSRValues ch _ _ _ _ => ch

/-- The length in bytes of a command, a function of the command alone (30_encoding.md R93). -/
def Instr.length (i : Instr) : Nat := i.command.format.length

/-- The nine commands that address a voice (30_encoding.md R90); the other seven ignore the channel
selector (R91). -/
def Command.addressesVoice : Command → Bool
  | .setWave | .setVolume | .noteOn | .noteOff | .syncOscillator | .resetOscillator | .setADSR
  | .setDuty | .setADSRValues => true
  | .noAction | .setTempo | .setGlobalVolume | .endOfStream | .softwareReset | .jumpInFile
  | .directExec => false

end Sys2Proof
end

