-- ==== Sys2Proof/Machine/Maps.lean ====
section
/-! DEFINITION. The configuration maps OPCODE_MAP, WAVE_MAP and REMAP as plain data, each with the spec's default
(00_scope.md R7, 92_eei_decisions.md D3, D4, D19). A run holds its maps in `Machine.Params`. Log 9. -/

namespace Sys2Proof

/-! ### OPCODE_MAP -/

/-- OPCODE_MAP: entry `n` is the command whose number is `n` (00_scope.md R7, 30_encoding.md R83). -/
structure OpcodeMap where
  table : Vector Command 16
deriving DecidableEq, Repr

/-- The default: the rows of the opcode table in order (30_encoding.md R83, 92_eei_decisions.md D3). -/
def OpcodeMap.tableOrder : OpcodeMap where
  table :=
    #v[.noAction, .setTempo, .setWave, .setVolume,
       .setGlobalVolume, .noteOn, .noteOff, .endOfStream,
       .softwareReset, .syncOscillator, .resetOscillator, .setADSR,
       .jumpInFile, .setDuty, .directExec, .setADSRValues]

/-- The command of a value of `cmd` (30_encoding.md R83). -/
def OpcodeMap.command (m : OpcodeMap) (n : Nibble) : Command := m.table.get n.toFin

/-- The number of a command, the inverse of a legal map (30_encoding.md R83). -/
def OpcodeMap.number (m : OpcodeMap) (c : Command) : Nibble := BitVec.ofNat 4 (m.table.toList.idxOf c)

/-- The map is a bijection: its 16 entries are the 16 commands, each once (00_scope.md R7). -/
abbrev OpcodeMap.Bijective (m : OpcodeMap) : Prop := m.table.toList.Nodup

/-! ### WAVE_MAP -/

/-- The seven waveforms (10_state.md R22). -/
inductive Waveform where
  | none | sine | triangle | square | sawtooth | noise | dc
deriving DecidableEq, Repr

/-- The waveforms in the order of the document's enumeration (30_encoding.md R88). -/
def Waveform.all : List Waveform := [.none, .sine, .triangle, .square, .sawtooth, .noise, .dc]

/-- WAVE_MAP: the code of each waveform (00_scope.md R7, 30_encoding.md R88). -/
structure WaveMap where
  none : Byte
  sine : Byte
  triangle : Byte
  square : Byte
  sawtooth : Byte
  noise : Byte
  dc : Byte
deriving DecidableEq, Repr

/-- The default: the positions in the enumeration, None 0 to DC 6 (30_encoding.md R88,
92_eei_decisions.md D4). -/
def WaveMap.enumerationOrder : WaveMap where
  none := 0#8
  sine := 1#8
  triangle := 2#8
  square := 3#8
  sawtooth := 4#8
  noise := 5#8
  dc := 6#8

/-- The code of a waveform (30_encoding.md R88). -/
def WaveMap.code (m : WaveMap) : Waveform → Byte
  | .none => m.none
  | .sine => m.sine
  | .triangle => m.triangle
  | .square => m.square
  | .sawtooth => m.sawtooth
  | .noise => m.noise
  | .dc => m.dc

/-- The seven codes; every other value of a waveform register is reserved (30_encoding.md R88, R92). -/
def WaveMap.codes (m : WaveMap) : List Byte := Waveform.all.map m.code

/-- The waveform of a register value, nothing for a reserved one (41_oscillator.md R110, R119). -/
def WaveMap.waveform (m : WaveMap) (code : Byte) : Option Waveform :=
  Waveform.all.find? fun w => m.code w == code

/-- The map is an injection: no two waveforms share a code (00_scope.md R7). -/
abbrev WaveMap.Injective (m : WaveMap) : Prop := m.codes.Nodup

/-! ### REMAP -/

/-- REMAP: the range remap of the mixer (00_scope.md R7, 43_mixer.md R172). A function on the integers is not
plain data, so any other function than the default is listed by its values at the sums that `n` voices can
reach, `-127 * n` first and `128 * n` last. -/
inductive Remap where
  /-- the default, the floor formula (43_mixer.md R172, 92_eei_decisions.md D19) -/
  | floor
  /-- another function, by its values -/
  | table (values : List Int)
deriving DecidableEq, Repr

/-- `Remap(acc)` for `n` voices (43_mixer.md R172). -/
def Remap.apply (n : Nat) (acc : Int) : Remap → Int
  | .floor => ((acc + 127 * n) * 255) / (254 * n)
  | .table values => (values[(acc + 127 * n).toNat]?).getD 0

/-- A listed function has a value for each of the `255 * n + 1` sums that `n` voices can reach
(43_mixer.md R171). -/
def Remap.sized (n : Nat) : Remap → Bool
  | .floor => true
  | .table values => values.length == 255 * n + 1

end Sys2Proof
end

