-- ==== Sys2Proof/WellFormed.lean ====
section
/-! DEFINITION. Which commands the assembler notation of 30_encoding.md R94 can write. Every `Instr` encodes
and runs (R92: there is no illegal opcode); a well-formed one has in addition the ignored bits at the value
the notation gives them and no reserved waveform code. -/

namespace Sys2Proof

/-- The channel selector of a command that addresses no voice is written as 0 (30_encoding.md R91). -/
def Instr.channelCanonical (i : Instr) : Bool :=
  i.command.addressesVoice || i.channel == 0#4

/-- SetWave's operand is one of the seven waveform codes of the run's map (30_encoding.md R88, R94). -/
def Instr.waveDefined (m : WaveMap) : Instr → Bool
  | .setWave _ b => m.codes.contains b
  | _ => true

/-- NoteOn's operand is a note index 0..127 (30_encoding.md R85, R94). -/
def Instr.noteCanonical : Instr → Bool
  | .noteOn _ b => b.toNat ≤ 127
  | _ => true

/-- SyncOscillator's operand is a channel index with a zero high nibble (30_encoding.md R86, R94). -/
def Instr.sourceCanonical : Instr → Bool
  | .syncOscillator _ b => b.toNat ≤ 15
  | _ => true

/-- The command can be written in the notation of 30_encoding.md R94. -/
def Instr.wellFormed (m : WaveMap) (i : Instr) : Bool :=
  i.channelCanonical && i.waveDefined m && i.noteCanonical && i.sourceCanonical

end Sys2Proof
end

