-- ==== Sys2Proof/Decode.lean ====
section
/-! DEFINITION. The command decoder, total on any bytes, and the encoder after it (30_encoding.md R80 to
R93), both over the run's OPCODE_MAP (R83). The only rejection is that the bytes run out: all 16 command
numbers are commands (R92). -/

namespace Sys2Proof

/-- Why the decoder rejects. -/
inductive Reject where
  /-- The bytes end before the command does (30_encoding.md R93). -/
  | truncated
deriving DecidableEq, Repr

/-- `b[7:4]`, the command number of an opcode byte (30_encoding.md R81). -/
def cmdField (b : Byte) : Nibble := b.extractLsb' 4 4

/-- `b[3:0]`, the channel selector of an opcode byte (30_encoding.md R81). -/
def chField (b : Byte) : Nibble := b.extractLsb' 0 4

/-- `{hi, lo}`, the big-endian assembly of a word operand (30_encoding.md R84, 20_memory.md R63). -/
def wordOf (hi lo : Byte) : Word := hi ++ lo

/-- Bits 15:8 of a word (30_encoding.md R82). -/
def hiByte (w : Word) : Byte := w.extractLsb' 8 8

/-- Bits 7:0 of a word (30_encoding.md R82). -/
def loByte (w : Word) : Byte := w.extractLsb' 0 8

/-- Reads a format Z command: no operand (30_encoding.md R82). -/
def takeNone (i : Instr) (bytes : List Byte) : Except Reject (Instr × List Byte) := .ok (i, bytes)

/-- Reads a format B operand: one byte (30_encoding.md R82). -/
def takeByte (mk : Byte → Instr) : List Byte → Except Reject (Instr × List Byte)
  | b :: rest => .ok (mk b, rest)
  | [] => .error .truncated

/-- Reads a format W operand: one big-endian word (30_encoding.md R82). -/
def takeWord (mk : Word → Instr) : List Byte → Except Reject (Instr × List Byte)
  | hi :: lo :: rest => .ok (mk (wordOf hi lo), rest)
  | _ => .error .truncated

/-- Reads the format A operands: word, word, byte, word (30_encoding.md R82, R87). -/
def takeWordWordByteWord (mk : Word → Word → Byte → Word → Instr) :
    List Byte → Except Reject (Instr × List Byte)
  | h1 :: l1 :: h2 :: l2 :: b :: h3 :: l3 :: rest =>
    .ok (mk (wordOf h1 l1) (wordOf h2 l2) b (wordOf h3 l3), rest)
  | _ => .error .truncated

/-- Reads the operands of a command whose opcode byte has been read (30_encoding.md R82, R83). -/
def decodeOperands (cmd : Command) (ch : Nibble) (bytes : List Byte) :
    Except Reject (Instr × List Byte) :=
  match cmd with
  | .noAction => takeNone (.noAction ch) bytes
  | .setTempo => takeWord (.setTempo ch) bytes
  | .setWave => takeByte (.setWave ch) bytes
  | .setVolume => takeByte (.setVolume ch) bytes
  | .setGlobalVolume => takeByte (.setGlobalVolume ch) bytes
  | .noteOn => takeByte (.noteOn ch) bytes
  | .noteOff => takeNone (.noteOff ch) bytes
  | .endOfStream => takeNone (.endOfStream ch) bytes
  | .softwareReset => takeNone (.softwareReset ch) bytes
  | .syncOscillator => takeByte (.syncOscillator ch) bytes
  | .resetOscillator => takeNone (.resetOscillator ch) bytes
  | .setADSR => takeByte (.setADSR ch) bytes
  | .jumpInFile => takeWord (.jumpInFile ch) bytes
  | .setDuty => takeByte (.setDuty ch) bytes
  | .directExec => takeByte (.directExec ch) bytes
  | .setADSRValues => takeWordWordByteWord (.setADSRValues ch) bytes

/-- The command at the head of the bytes and the bytes after it (30_encoding.md R80, R92, R93). -/
def decode (m : OpcodeMap) : List Byte → Except Reject (Instr × List Byte)
  | [] => .error .truncated
  | op :: rest => decodeOperands (m.command (cmdField op)) (chField op) rest

/-- The opcode byte `{cmd, ch}` (30_encoding.md R81). -/
def opcodeByte (m : OpcodeMap) (cmd : Command) (ch : Nibble) : Byte := m.number cmd ++ ch

/-- The two bytes of a word operand, high byte first (30_encoding.md R82). -/
def wordBytes (w : Word) : List Byte := [hiByte w, loByte w]

/-- The operand bytes of a command, in stream order (30_encoding.md R82, R87). -/
def operandBytes : Instr → List Byte
  | .noAction _ | .noteOff _ | .endOfStream _ | .softwareReset _ | .resetOscillator _ => []
  | .setWave _ b | .setVolume _ b | .setGlobalVolume _ b | .noteOn _ b | .syncOscillator _ b
  | .setADSR _ b | .setDuty _ b | .directExec _ b => [b]
  | .setTempo _ w | .jumpInFile _ w => wordBytes w
  | .setADSRValues _ a d s r => wordBytes a ++ wordBytes d ++ [s] ++ wordBytes r

/-- The bytes of a command (30_encoding.md R82). -/
def encode (m : OpcodeMap) (i : Instr) : List Byte := opcodeByte m i.command i.channel :: operandBytes i

/-- The eight bytes of a table word: byte `k` is bits `8k+7..8k` of the low `nbits` bits of `w`, so that the
opcode byte is the least significant one (the numbering of spec/opcode_table.json), zeros above. -/
def tableBytes (nbits w : Nat) : List Byte :=
  let v := w % 2 ^ nbits
  [.ofNat 8 v, .ofNat 8 (v >>> 8), .ofNat 8 (v >>> 16), .ofNat 8 (v >>> 24),
   .ofNat 8 (v >>> 32), .ofNat 8 (v >>> 40), .ofNat 8 (v >>> 48), .ofNat 8 (v >>> 56)]

/-- The command the decoder reads from a table word, `none` where it rejects. The table numbers the commands by
the default map. -/
def decodeTableWord (nbits w : Nat) : Option Instr :=
  match decode .tableOrder (tableBytes nbits w) with
  | .ok (i, _) => some i
  | .error _ => none

end Sys2Proof
end

