-- ==== Sys2Proof/Config.lean ====
section
/-! DEFINITION. What the spec leaves to an implementation (00_scope.md R6, R7). The opaque constants have no
value any proof can see, so a statement holds for every value of them; the numbers are the values
`State.reset` takes, each named in a log entry. -/

namespace Sys2Proof.Config

/-- FREQ_TABLE as `State.reset` holds it: contents open (00_scope.md R6, 93_implementation_defined.md U6).
Log 3. -/
opaque freqTable : Vector Byte 128

/-- SINE_TABLE as `State.reset` holds it: contents open (00_scope.md R7, 93_implementation_defined.md U5).
Log 3. -/
opaque sineTable : Vector Byte 256

/-- MS_TO_TICKS_OOD: the millisecond conversion outside its formula's domain, a function of the sample rate
and of the operand alone (42_envelope.md R146). Log 7. -/
opaque msToTicksOod (sampleRate : Nat) (ms : Word) : Word

/-- The free choice behind the auto-offset mode of the scaling function, of which only R162 may be assumed
(43_mixer.md R161). `Machine.scale` restricts it to that rule. Log 8. -/
opaque autoOffsetScale (v s : Byte) : Byte

/-- N at reset: the reference voice count (00_scope.md R6). Log 2. -/
def numVoices : Nat := 6

/-- P at reset. DESIGN CHOICE, the largest table the spec allows (00_scope.md R6). Log 2. -/
def numPresets : Nat := 16

/-- SAMPLE_RATE at reset. DESIGN CHOICE, the rate of the spec's worked examples. Log 2. -/
def sampleRate : Nat := 16000

/-- NOISE_SEED at reset. DESIGN CHOICE, nonzero as 41_oscillator.md R118 asks. Log 4. -/
def noiseSeed : DWord := 1#32

/-- TEMPO_DEFAULT_COMPARE at reset: MsToTicks(200) at `sampleRate` (00_scope.md R7,
92_eei_decisions.md D16). Log 6. -/
def tempoDefaultCompare : DWord := 3199#32

end Sys2Proof.Config
end

