-- ==== Sys2Proof/Machine/State.lean ====
section
/-! DEFINITION. The state of the GCG synth core (10_state.md R20 to R33), the reasons a step can stop, and
the state right after reset. -/

namespace Sys2Proof.Machine

/-- A SubTimer (10_state.md R25). -/
structure SubTimer where
  compare : DWord
  counter : DWord
deriving DecidableEq, Repr

/-- The four ADSR phases (10_state.md R24). "Ended" is the flag `ended`, not a fifth phase
(42_envelope.md R148). -/
inductive EnvState where
  | attack | decay | sustain | release
deriving DecidableEq, Repr

/-- The envelope of a voice (10_state.md R24); `type` 0 is "none" (bypass), `k` selects preset `k`. -/
structure Envelope where
  type : BitVec 5
  state : EnvState
  ended : Bool
  value : Byte
  timer : SubTimer
deriving DecidableEq, Repr

/-- A voice record (10_state.md R21 to R24). The waveform register holds any byte (R22). -/
structure Voice where
  waveform : Byte
  duty : Byte
  tuningWord : Byte
  phase : Byte
  volume : Byte
  env : Envelope
deriving DecidableEq, Repr

/-- An entry of the preset table (10_state.md R31). -/
structure Preset where
  attackTicks : Word
  decayTicks : Word
  sustainLevel : Byte
  releaseTicks : Word
deriving DecidableEq, Repr

/-- The two modes of the scaling function (00_scope.md R7, 43_mixer.md R160, R161). -/
inductive ScaleMode where
  | plain | autoOffset
deriving DecidableEq, Repr

/-- The parameters fixed for a run, arguments of the step function (10_state.md R39, 00_scope.md R6, R7).
N is the length of `State.voices` and P the length of `State.presets`. -/
structure Params where
  sampleRate : Nat
  freqTable : Vector Byte 128
  sineTable : Vector Byte 256
  noiseSeed : DWord
  tempoDefaultCompare : DWord
  presetInit : List Preset
  scaleMode : ScaleMode
  opcodeMap : OpcodeMap
  waveMap : WaveMap
  remap : Remap
deriving DecidableEq, Repr

/-- The bytes of the instruction stream in one canonical form: addresses strictly rising, no zero byte
listed (00_scope.md R8, 20_memory.md R60). Log 10. -/
abbrev Memory := List Host.Cell

/-- The part of `SampleTick` that runs next (43_mixer.md R170). Log 1. -/
inductive TickPhase where
  /-- between sample ticks -/
  | idle
  /-- the tempo clock fired: the next `FetchExecute` is due -/
  | burst
  /-- the burst, if any, is over: `Synth` is due -/
  | synth
deriving DecidableEq, Repr

/-- An operation of the optional host command port (60_exceptions.md R248): those of 43_mixer.md R176 to
R186 and `EnvConfigure`. Channel and preset indices are unbounded: the operations test them (R185, R144). -/
inductive HostOp where
  | mixerReset
  | setWave (c : Nat) (w : Byte)
  | setVolume (c : Nat) (v : Byte)
  | setGlobalVolume (v : Byte)
  | setDuty (c : Nat) (d : Byte)
  | noteOn (c : Nat) (n : BitVec 7)
  | noteOff (c : Nat)
  | syncOscillators (a b : Nat)
  | resetOscillator (c : Nat)
  | setAdsr (c : Nat) (k : Byte)
  | envConfigure (k : Byte) (attackMs decayMs : Word) (s : Byte) (releaseMs : Word)
deriving DecidableEq, Repr

/-- An input event other than Reset (60_exceptions.md R245). -/
inductive Event where
  | sampleTick
  | hostOp (op : HostOp)
deriving DecidableEq, Repr

/-- What arrives at one moment between sample ticks. A SampleTick and a HostOp never coincide
(60_exceptions.md R249); a Reset may coincide with either. Log 15. -/
structure Moment where
  reset : Bool
  event : Option Event
deriving DecidableEq, Repr

/-- The two kinds of output event (60_exceptions.md R247). -/
inductive Output where
  /-- `emit(s)`, 43_mixer.md R175 -/
  | sample (s : Byte)
  /-- `stream_end()`, 44_tracker.md R217 -/
  | streamEnd
deriving DecidableEq, Repr

/-- The state of the machine: the spec's own state (10_state.md R20), the sample tick in progress (R39,
log 1), the parameters and the stream of the run (R39), and the boundary (60_exceptions.md R245, R247). -/
structure State where
  /-- V[0..N-1], R21 -/
  voices : List Voice
  /-- G.global_volume, R26 -/
  globalVolume : Byte
  /-- TEMPO, R27 -/
  tempo : SubTimer
  /-- R28 -/
  cursor : Word
  /-- G.halted, R29 -/
  halted : Bool
  /-- G.noise, R30 -/
  noise : DWord
  /-- PRE[1..P], R31 -/
  presets : List Preset
  /-- the part of the tick that runs next, log 1 -/
  tickPhase : TickPhase
  /-- top-level `FetchExecute` calls left in the burst (44_tracker.md R200), log 1 -/
  slots : Nat
  /-- DirectExec repeat counters, innermost first (44_tracker.md R224, R226), log 1 -/
  direct : List Nat
  /-- the run's parameters, R39 -/
  params : Params
  /-- STREAM, 00_scope.md R8 -/
  stream : Memory
  /-- STREAM_LEN, 00_scope.md R8 -/
  streamLen : Nat
  /-- the moments the outside world will deliver, next first, log 15 -/
  inbox : List Moment
  /-- the output events, newest first, log 14 -/
  outputs : List Output
deriving DecidableEq, Repr

/-- Why the machine stops. -/
inductive Fault where
  /-- StreamOverrun: a fetch needs a byte at an address at or above STREAM_LEN (20_memory.md R68,
  93_implementation_defined.md U1); raised by fetching a command, with the first such address. Safe:
  nothing can be proved of what the read returns. -/
  | streamOverrun (address : Word)
deriving DecidableEq, Repr

/-- Why the model gives a step no meaning. -/
inductive Refusal where
  /-- An instruction without a meaning; no arm of `exec` answers with it. Safe. -/
  | notModelled (mnemonic : String)
  /-- `OscSample` of a voice whose waveform register holds a reserved code (7..255 by the default map), which
  has no defined sample (41_oscillator.md R119, 93_implementation_defined.md U2); raised by `Synth` only. Safe. -/
  | reservedWaveform (code : Byte)
deriving DecidableEq, Repr

/-- The envelope of a voice after reset (10_state.md R33). -/
def Envelope.atReset : Envelope where
  type := 0#5
  state := .attack
  ended := true
  value := 0#8
  timer := { compare := 0#32, counter := 0#32 }

/-- A voice after reset (10_state.md R33): its waveform is None, whose code is 0 by the default map. Log 9. -/
def Voice.atReset (m : WaveMap) : Voice where
  waveform := m.none
  duty := 127#8
  tuningWord := 0#8
  phase := 0#8
  volume := 0#8
  env := Envelope.atReset

/-- An entry of PRESET_INIT at reset: DESIGN CHOICE, all zero. Log 5. -/
def Preset.zero : Preset where
  attackTicks := 0#16
  decayTicks := 0#16
  sustainLevel := 0#8
  releaseTicks := 0#16

/-- The parameters `State.reset` holds (logs 2 to 9). -/
def Params.atReset : Params where
  sampleRate := Config.sampleRate
  freqTable := Config.freqTable
  sineTable := Config.sineTable
  noiseSeed := Config.noiseSeed
  tempoDefaultCompare := Config.tempoDefaultCompare
  presetInit := List.replicate Config.numPresets Preset.zero
  scaleMode := .plain
  opcodeMap := .tableOrder
  waveMap := .enumerationOrder
  remap := .floor

/-- The machine right after reset: the table of 10_state.md R33, with nothing placed in the stream
(log 11) and nothing yet exchanged with the outside (logs 14, 15). -/
def State.reset : State where
  voices := List.replicate Config.numVoices (Voice.atReset .enumerationOrder)
  globalVolume := 0#8
  tempo := { compare := Config.tempoDefaultCompare, counter := 0#32 }
  cursor := 0#16
  halted := false
  noise := Config.noiseSeed
  presets := List.replicate Config.numPresets Preset.zero
  tickPhase := .idle
  slots := 0
  direct := []
  params := Params.atReset
  stream := []
  streamLen := 0
  inbox := []
  outputs := []

end Sys2Proof.Machine
end

