-- ==== Sys2Proof/Machine/Ops.lean ====
section
/-! DEFINITION. The named operations over the stream, the cursor, the voices and the boundary. The hardware
takes no exception and returns from none (60_exceptions.md R240, R250, R251), so there is no exception
operation here; the one terminal event is `State.halt` (44_tracker.md R217). -/

namespace Sys2Proof.Machine

/-! ### The stream's bytes (log 10) -/

/-- The byte at an address; an unlisted one is 0. -/
def Memory.read : Memory → Nat → Byte
  | [], _ => 0#8
  | (k, b) :: rest, a => if a = k then b else if a < k then 0#8 else Memory.read rest a

/-- The cell for an address and a byte: none for the byte an unlisted address reads as. -/
def Memory.cell (a : Nat) (b : Byte) : Memory := if b = 0#8 then [] else [(a, b)]

/-- Places a byte, keeping the canonical form. No step uses it: the hardware writes no memory
(20_memory.md R66). It stands for loading the stream from outside. -/
def Memory.write : Memory → Nat → Byte → Memory
  | [], a, b => Memory.cell a b
  | (k, c) :: rest, a, b =>
    if a = k then Memory.cell a b ++ rest
    else if a < k then Memory.cell a b ++ (k, c) :: rest
    else (k, c) :: Memory.write rest a b

/-- The canonical form from an address on: strictly rising addresses at or above `lo`, no zero byte. -/
def Memory.wfFrom : Nat → Memory → Bool
  | _, [] => true
  | lo, (k, b) :: rest => decide (lo ≤ k) && decide (b ≠ 0#8) && Memory.wfFrom (k + 1) rest

/-- The canonical form (log 10). -/
def Memory.wf (m : Memory) : Bool := Memory.wfFrom 0 m

/-- Places bytes from an address on, each address modulo 65536. -/
def Memory.writeBytes (m : Memory) (a : Word) : List Byte → Memory
  | [] => m
  | b :: rest => Memory.writeBytes (Memory.write m a.toNat b) (a + 1#16) rest

/-! ### Stream reads and fetches -/

/-- `MemRead(a, 1)`: the byte, or nothing at or above STREAM_LEN (20_memory.md R62, R68). -/
def State.memRead1 (s : State) (a : Word) : Option Byte :=
  if a.toNat < s.streamLen then some (s.stream.read a.toNat) else none

/-- `MemRead(a, 2)`: big-endian, the second address modulo 65536 (20_memory.md R63). -/
def State.memRead2 (s : State) (a : Word) : Option Word :=
  match s.memRead1 a, s.memRead1 (a + 1#16) with
  | some hi, some lo => some (wordOf hi lo)
  | _, _ => none

/-- `Fetch8()` (44_tracker.md R203). -/
def State.fetch8 (s : State) : Option (Byte × State) :=
  (s.memRead1 s.cursor).map fun b => (b, { s with cursor := s.cursor + 1#16 })

/-- `Fetch16()` (44_tracker.md R204). -/
def State.fetch16 (s : State) : Option (Word × State) :=
  (s.memRead2 s.cursor).map fun w => (w, { s with cursor := s.cursor + 2#16 })

/-- The readable bytes from an address on, at most `n`, ending before the first address that does not
exist. -/
def State.bytesFrom (s : State) : Nat → Word → List Byte
  | 0, _ => []
  | n + 1, a =>
    match s.memRead1 a with
    | some b => b :: State.bytesFrom s n (a + 1#16)
    | none => []

/-- The bytes a command at the cursor can use: the longest command has 8 (30_encoding.md R93). -/
def State.window (s : State) : List Byte := s.bytesFrom 8 s.cursor

/-- Reads the command at the cursor (44_tracker.md R201): the opcode byte and the operand bytes that its
command number asks for; a byte at or above STREAM_LEN among them is a StreamOverrun (20_memory.md R68).
The cursor moves when the command is executed. Log 12. -/
def State.fetchInstr (s : State) : Except Fault Instr :=
  match decode s.params.opcodeMap s.window with
  | .ok (i, _) => .ok i
  | .error .truncated => .error (.streamOverrun (s.cursor + BitVec.ofNat 16 s.window.length))

/-! ### The cursor -/

/-- Moves the cursor past a command of `n` bytes, modulo 65536 (30_encoding.md R82, 44_tracker.md R203). -/
def State.advance (s : State) (n : Nat) : State :=
  { s with cursor := s.cursor + BitVec.ofNat 16 n }

/-! ### The voices -/

/-- N (00_scope.md R6). -/
def State.numVoices (s : State) : Nat := s.voices.length

/-- P (00_scope.md R6). -/
def State.numPresets (s : State) : Nat := s.presets.length

/-- Changes voice `c`; an index at or above N does nothing (43_mixer.md R185). -/
def State.updateVoice (s : State) (c : Nat) (f : Voice → Voice) : State :=
  match s.voices[c]? with
  | some v => { s with voices := s.voices.set c (f v) }
  | none => s

/-! ### The boundary -/

/-- `emit(out)` (43_mixer.md R175). Log 14. -/
def State.emit (s : State) (out : Byte) : State := { s with outputs := .sample out :: s.outputs }

/-- The terminal halt: sets G.halted and raises `stream_end` (44_tracker.md R217). -/
def State.halt (s : State) : State := { s with halted := true, outputs := .streamEnd :: s.outputs }

end Sys2Proof.Machine
end

