-- ==== Sys2Proof/Machine/Operands.lean ====
section
/-! DEFINITION. What the commands make of their operands (30_encoding.md R84 to R90) and the millisecond
conversion (42_envelope.md R145). -/

namespace Sys2Proof.Machine

/-- The voice index a channel selector names (30_encoding.md R81). -/
def channelIndex (ch : Nibble) : Nat := ch.toNat

/-- NoteOn: `b & 0x7F` (30_encoding.md R85). -/
def noteIndex (b : Byte) : BitVec 7 := b.extractLsb' 0 7

/-- SyncOscillator: the voice read is `b[3:0]` (30_encoding.md R86). -/
def sourceIndex (b : Byte) : Nat := (chField b).toNat

/-- DirectExec: the repeat count (30_encoding.md R89). -/
def repeatCount (b : Byte) : Nat := b.toNat

/-- `MsToTicks(ms)`: both divisions drop the remainder; outside the formula's domain the parameter
MS_TO_TICKS_OOD (42_envelope.md R145, R146). Log 7. -/
def msToTicks (sampleRate : Nat) (ms : Word) : Word :=
  let q := sampleRate / (1000 / ms.toNat)
  if 1 ≤ ms.toNat ∧ ms.toNat ≤ 1000 ∧ 1 ≤ q ∧ q ≤ 65536 then BitVec.ofNat 16 (q - 1)
  else Config.msToTicksOod sampleRate ms

end Sys2Proof.Machine
end

