-- ==== Sys2Proof/Machine/Flags.lean ====
section
/-! DEFINITION. The one-bit conditions of 10_state.md R36. There are no condition codes; `ended` and `halted`
are state, "fired" and "more-ready" are transient. -/

namespace Sys2Proof.Machine

/-- "fired": the counter, after the increment, has reached the compare value (40_subtimer.md R100). -/
def timerFires (compare counter : DWord) : Bool := decide (compare.toNat ≤ counter.toNat)

/-- "more-ready": `FetchExecute` returns true exactly for DirectExec, whatever its count
(44_tracker.md R201). -/
def moreReady (i : Instr) : Bool := i.command == .directExec

/-- The end-of-stream test of a tempo firing (44_tracker.md R200, 20_memory.md R67). -/
def State.pastEnd (s : State) : Bool := decide (s.streamLen ≤ s.cursor.toNat)

/-- No `FetchExecute` call of this burst is outstanding (44_tracker.md R200, R224). -/
def State.burstDone (s : State) : Bool := s.slots == 0 && s.direct.isEmpty

end Sys2Proof.Machine
end

