-- ==== Sys2Proof/Machine/SubTimer.lean ====
section
/-! DEFINITION. The SubTimer, the only timing primitive (40_subtimer.md). -/

namespace Sys2Proof.Machine

/-- `TickInc(t, step)`: the fired bit and the timer after the call. The increment comes first; on a firing
the excess over the compare value is dropped (40_subtimer.md R101). The sum is modulo 2^32 (R105,
log 19). -/
def SubTimer.tickInc (t : SubTimer) (step : DWord) : Bool × SubTimer :=
  let counter := t.counter + step
  if timerFires t.compare counter then (true, { t with counter := 0#32 })
  else (false, { t with counter := counter })

/-- `Tick(t)` (40_subtimer.md R100). -/
def SubTimer.tick (t : SubTimer) : Bool × SubTimer := t.tickInc 1#32

/-- `SetCompare(t, v)` (40_subtimer.md R102). -/
def SubTimer.setCompare (_t : SubTimer) (v : DWord) : SubTimer := { compare := v, counter := 0#32 }

/-- `TimerReset(t)`; no rule calls it (40_subtimer.md R103). Log 21. -/
def SubTimer.timerReset (t : SubTimer) : SubTimer := { t with counter := 0#32 }

end Sys2Proof.Machine
end

