-- ==== Sys2Proof/Machine/Envelope.lean ====
section
/-! DEFINITION. The ADSR envelope generator (42_envelope.md). -/

namespace Sys2Proof.Machine

/-- The record a bypassed envelope uses when it is reset (42_envelope.md R130). -/
def bypassPreset : Preset where
  attackTicks := 0#16
  decayTicks := 0#16
  sustainLevel := 255#8
  releaseTicks := 0#16

/-- `EnvPreset(c)`: PRE[type], read when it is needed (42_envelope.md R130). Type 0 has the bypass record;
so has a type above P, which no reachable state holds (10_state.md R38, log 17). -/
def envPreset (presets : List Preset) (type : BitVec 5) : Preset :=
  if type.toNat = 0 then bypassPreset else (presets[type.toNat - 1]?).getD bypassPreset

/-- `EnvCompare(T, steps)`: `ceil(T * 1024 / steps)`, 0 for no steps (42_envelope.md R132). -/
def envCompare (ticks : Word) (steps : Nat) : DWord :=
  if steps = 0 then 0#32 else BitVec.ofNat 32 ((ticks.toNat * 1024 + steps - 1) / steps)

/-- The compare value of Sustain, `1<<31` (42_envelope.md R135). -/
def sustainCompare : DWord := 0x80000000#32

/-- The value forced and the compare value armed on entry to a phase (42_envelope.md R133 to R136). -/
def envEntry (p : Preset) : EnvState → Byte × DWord
  | .attack => (0#8, envCompare p.attackTicks 255)
  | .decay => (255#8, envCompare p.decayTicks (255 - p.sustainLevel.toNat))
  | .sustain => (p.sustainLevel, sustainCompare)
  | .release => (p.sustainLevel, envCompare p.releaseTicks p.sustainLevel.toNat)

/-- `EnvReset(c, target)`: a no-op for Release on an ended envelope (42_envelope.md R131, R136, R137). -/
def envReset (presets : List Preset) (e : Envelope) (target : EnvState) : Envelope :=
  if target = .release ∧ e.ended = true then e
  else
    let entry := envEntry (envPreset presets e.type) target
    { e with
      value := entry.1
      timer := e.timer.setCompare entry.2
      state := target
      ended := false }

/-- What a firing of the envelope's timer does (42_envelope.md R140 to R142). -/
def envFire (presets : List Preset) (e : Envelope) : Envelope :=
  match e.state with
  | .attack =>
    if e.value.toNat + 1 ≥ 255 then envReset presets e .decay
    else { e with value := e.value + 1#8 }
  | .decay =>
    if (e.value.toNat : Int) - 1 ≤ (envPreset presets e.type).sustainLevel.toNat then
      envReset presets e .sustain
    else { e with value := e.value - 1#8 }
  | .sustain => e
  | .release =>
    if (e.value.toNat : Int) - 1 ≤ 0 then { e with value := 0#8, ended := true }
    else { e with value := e.value - 1#8 }

/-- `EnvSample(c)`: the envelope sample and the envelope after it. Bypass is tested before `ended`
(42_envelope.md R139). -/
def envSample (presets : List Preset) (e : Envelope) : Byte × Envelope :=
  if e.type = 0#5 then (255#8, e)
  else if e.ended then (0#8, e)
  else
    let ticked := e.timer.tickInc 1024#32
    let e1 : Envelope := { e with timer := ticked.2 }
    let e2 := if ticked.1 then envFire presets e1 else e1
    (e2.value, e2)

/-- The preset record written by `EnvConfigure` (42_envelope.md R144). -/
def configuredPreset (sampleRate : Nat) (attackMs decayMs : Word) (s : Byte) (releaseMs : Word) :
    Preset where
  attackTicks := msToTicks sampleRate attackMs
  decayTicks := msToTicks sampleRate decayMs
  sustainLevel := s
  releaseTicks := msToTicks sampleRate releaseMs

/-- `EnvConfigure(k, a_ms, d_ms, s, r_ms)`: a no-op for preset 0 and above P (42_envelope.md R144). -/
def State.envConfigure (s : State) (k : Nat) (attackMs decayMs : Word) (level : Byte)
    (releaseMs : Word) : State :=
  if k = 0 ∨ s.numPresets < k then s
  else
    { s with
      presets := s.presets.set (k - 1)
        (configuredPreset s.params.sampleRate attackMs decayMs level releaseMs) }

end Sys2Proof.Machine
end

