-- ==== Sys2Proof/Machine/Oscillator.lean ====
section
/-! DEFINITION. The DDS oscillator: the waveform multiplexer, the noise generator and the phase accumulator
(41_oscillator.md). -/

namespace Sys2Proof.Machine

/-- `Tri(p)` (41_oscillator.md R113). -/
def triangle (p : Byte) : Byte :=
  let n := p.toNat
  if n < 64 then BitVec.ofNat 8 (127 - 2 * n)
  else if n < 192 then BitVec.ofNat 8 (2 * (n - 64))
  else BitVec.ofNat 8 (255 - 2 * (n - 192))

/-- The Square sample: high while the phase is at most the duty (41_oscillator.md R114). -/
def square (p d : Byte) : Byte := if p.toNat ≤ d.toNat then 255#8 else 0#8

/-- The Sawtooth sample (41_oscillator.md R115). -/
def sawtooth (p : Byte) : Byte := p + 127#8

/-- The noise generator's next state, an xorshift with shifts 13 left, 17 right, 5 left
(41_oscillator.md R116). Log 20. -/
def noiseNext (x : DWord) : DWord :=
  let x1 := x ^^^ (x <<< 13)
  let x2 := x1 ^^^ (x1 >>> 17)
  x2 ^^^ (x2 <<< 5)

/-- The sample of a noise state, its low byte (41_oscillator.md R116). -/
def noiseByte (x : DWord) : Byte := x.extractLsb' 0 8

/-- `OscSample(c)`: the sample and the noise state after it, nothing for a reserved waveform code
(41_oscillator.md R110, R119). Only Noise changes the generator. -/
def oscSample (p : Params) (noise : DWord) (v : Voice) : Option (Byte × DWord) :=
  match p.waveMap.waveform v.waveform with
  | some .none => some (127#8, noise)
  | some .sine => some (p.sineTable.get v.phase.toFin, noise)
  | some .triangle => some (triangle v.phase, noise)
  | some .square => some (square v.phase v.duty, noise)
  | some .sawtooth => some (sawtooth v.phase, noise)
  | some .noise => some (noiseByte (noiseNext noise), noiseNext noise)
  | some .dc => some (v.duty, noise)
  | Option.none => Option.none

/-- `OscAdvance(c)`: modulo 256 (41_oscillator.md R120). -/
def oscAdvance (v : Voice) : Voice := { v with phase := v.phase + v.tuningWord }

end Sys2Proof.Machine
end

