-- ==== Sys2Proof/Machine/Mixer.lean ====
section
/-! DEFINITION. The fixed-point sample mixer: scaling, one synthesis step, and the control operations that
commands and the host use (43_mixer.md). -/

namespace Sys2Proof.Machine

/-! ### Scaling -/

/-- `Scale(v, s)` in the plain mode (43_mixer.md R160). -/
def scalePlain (v s : Byte) : Byte :=
  if v = 0#8 ∨ s = 0#8 then 0#8
  else BitVec.ofNat 8 (((v.toNat * s.toNat) >>> 8) + 1)

/-- `Scale(v, s)` in the auto-offset mode: any function with the properties of R162, and nothing more
(43_mixer.md R161, R162). Log 8. -/
def scaleAutoOffset (v s : Byte) : Byte :=
  let free := Config.autoOffsetScale v s
  if v = 0#8 ∨ s = 0#8 then 0#8
  else if v = 255#8 ∧ s = 255#8 then (if free = 0#8 then 254#8 else 255#8)
  else if free = 0#8 then 1#8
  else free

/-- `Scale(v, s)` in the mode the run is built with (00_scope.md R7). -/
def scale : ScaleMode → Byte → Byte → Byte
  | .plain => scalePlain
  | .autoOffset => scaleAutoOffset

/-! ### One synthesis step -/

/-- The clamp to 0..255 (43_mixer.md R173). -/
def clampByte (m : Int) : Byte := BitVec.ofNat 8 (max 0 (min 255 m)).toNat

/-- The scaled sample `b` of a voice: by the envelope sample, then by the volume (43_mixer.md R171). -/
def scaledSample (mode : ScaleMode) (osc env volume : Byte) : Byte :=
  scale mode (scale mode osc env) volume

/-- One voice's slot of `Synth`: sample, advance, envelope, scale, remove the bias. Gives the contribution
to the accumulator, the voice and the noise state after it (43_mixer.md R171). -/
def synthVoice (p : Params) (presets : List Preset) (noise : DWord) (v : Voice) :
    Except Refusal (Int × Voice × DWord) :=
  match oscSample p noise v with
  | Option.none => .error (.reservedWaveform v.waveform)
  | some (o, noise') =>
    let sampled := envSample presets v.env
    let b := scaledSample p.scaleMode o sampled.1 v.volume
    .ok ((b.toNat : Int) - 127, { oscAdvance v with env := sampled.2 }, noise')

/-- The voices in ascending index order, one noise state through all of them (43_mixer.md R171,
41_oscillator.md R117). -/
def synthVoices (p : Params) (presets : List Preset) :
    DWord → List Voice → Except Refusal (Int × List Voice × DWord)
  | noise, [] => .ok (0, [], noise)
  | noise, v :: rest =>
    match synthVoice p presets noise v with
    | .error r => .error r
    | .ok (x, v', noise') =>
      match synthVoices p presets noise' rest with
      | .error r => .error r
      | .ok (acc, rest', noise'') => .ok (x + acc, v' :: rest', noise'')

/-- The emitted byte for an accumulator value (43_mixer.md R172 to R174). -/
def mixOutput (p : Params) (n : Nat) (globalVolume : Byte) (acc : Int) : Byte :=
  scale p.scaleMode (clampByte (p.remap.apply n acc)) globalVolume

/-- `Synth()`: runs every voice, emits one sample and ends the tick (43_mixer.md R171, R175). -/
def State.synth (s : State) : Host.Outcome State Fault Refusal :=
  match synthVoices s.params s.presets s.noise s.voices with
  | .error r => .refused r
  | .ok (acc, voices, noise) =>
    .next ({ s with voices := voices, noise := noise, tickPhase := .idle }.emit
      (mixOutput s.params s.numVoices s.globalVolume acc))

/-! ### Control operations (43_mixer.md section 3; an index at or above N does nothing, R185) -/

/-- `SetWave(c, w)` (43_mixer.md R177). -/
def State.setWave (s : State) (c : Nat) (w : Byte) : State :=
  s.updateVoice c fun v => { v with waveform := w }

/-- `SetVolume(c, v)` (43_mixer.md R178). -/
def State.setVolume (s : State) (c : Nat) (volume : Byte) : State :=
  s.updateVoice c fun v => { v with volume := volume }

/-- `SetGlobalVolume(v)` (43_mixer.md R179). -/
def State.setGlobalVolume (s : State) (volume : Byte) : State := { s with globalVolume := volume }

/-- `SetDuty(c, d)` (43_mixer.md R180). -/
def State.setDuty (s : State) (c : Nat) (d : Byte) : State :=
  s.updateVoice c fun v => { v with duty := d }

/-- What NoteOn does to a voice (43_mixer.md R181). -/
def noteOnVoice (p : Params) (presets : List Preset) (n : BitVec 7) (v : Voice) : Voice :=
  { v with
    tuningWord := p.freqTable.get n.toFin
    env := envReset presets v.env .attack }

/-- `NoteOn(c, n)` (43_mixer.md R181). -/
def State.noteOn (s : State) (c : Nat) (n : BitVec 7) : State :=
  s.updateVoice c (noteOnVoice s.params s.presets n)

/-- What NoteOff does to a voice: hard stop when bypassed, else Release (43_mixer.md R182). -/
def noteOffVoice (presets : List Preset) (v : Voice) : Voice :=
  if v.env.type = 0#5 then { v with tuningWord := 0#8 }
  else { v with env := envReset presets v.env .release }

/-- `NoteOff(c)` (43_mixer.md R182). -/
def State.noteOff (s : State) (c : Nat) : State := s.updateVoice c (noteOffVoice s.presets)

/-- `SyncOscillators(a, b)`: both indices must be below N (43_mixer.md R183). -/
def State.syncOscillators (s : State) (a b : Nat) : State :=
  match s.voices[b]? with
  | some source => s.updateVoice a fun v => { v with phase := source.phase }
  | Option.none => s

/-- `ResetOscillator(c)` (43_mixer.md R184). -/
def State.resetOscillator (s : State) (c : Nat) : State :=
  s.updateVoice c fun v => { v with phase := 0#8 }

/-- What SetAdsr does to a voice for a preset index in range (43_mixer.md R186). -/
def setAdsrVoice (presets : List Preset) (k : Byte) (v : Voice) : Voice :=
  { v with
    env := { envReset presets { v.env with type := k.setWidth 5 } .attack with ended := true } }

/-- `SetAdsr(c, k)`: an index above P does nothing (43_mixer.md R186). Log 17. -/
def State.setAdsr (s : State) (c : Nat) (k : Byte) : State :=
  if s.numPresets < k.toNat then s else s.updateVoice c (setAdsrVoice s.presets k)

/-- What `MixerReset` does to a voice; the waveform becomes None (43_mixer.md R176, 42_envelope.md R138).
Log 9. -/
def resetVoice (p : Params) (presets : List Preset) (v : Voice) : Voice where
  volume := 0#8
  env := { envReset presets { v.env with type := 0#5 } .attack with ended := true }
  waveform := p.waveMap.none
  duty := 127#8
  tuningWord := 0#8
  phase := 0#8

/-- `MixerReset()` (43_mixer.md R176). -/
def State.mixerReset (s : State) : State :=
  { s with globalVolume := 0#8, voices := s.voices.map (resetVoice s.params s.presets) }

end Sys2Proof.Machine
end

