-- ==== Sys2Proof/Machine/EnvelopeCommands.lean ====
section
/-! DEFINITION. The commands that drive a voice's envelope or the preset table. A channel selector at or above
N changes nothing but the cursor (30_encoding.md R90). Each meaning is one whole `FetchExecute` from a
state whose cursor is on the opcode byte (44_tracker.md R201). -/

namespace Sys2Proof.Machine

/-- NoteOn: the note is `b & 0x7F` (44_tracker.md R215). -/
def execNoteOn (ch : Nibble) (b : Byte) (s : State) : Host.Outcome State Fault Refusal :=
  .next ((s.advance 2).noteOn (channelIndex ch) (noteIndex b))

/-- NoteOff (44_tracker.md R216). -/
def execNoteOff (ch : Nibble) (s : State) : Host.Outcome State Fault Refusal :=
  .next ((s.advance 1).noteOff (channelIndex ch))

/-- SetADSR (44_tracker.md R221). -/
def execSetADSR (ch : Nibble) (b : Byte) (s : State) : Host.Outcome State Fault Refusal :=
  .next ((s.advance 2).setAdsr (channelIndex ch) b)

/-- SetADSRValues: rewrites the preset that the addressed voice selects (44_tracker.md R225). -/
def execSetADSRValues (ch : Nibble) (attack decay : Word) (level : Byte) (release : Word) (s : State) :
    Host.Outcome State Fault Refusal :=
  match s.voices[channelIndex ch]? with
  | some v => .next ((s.advance 8).envConfigure v.env.type.toNat attack decay level release)
  | none => .next (s.advance 8)

end Sys2Proof.Machine
end

