-- ==== Sys2Proof/Machine/GlobalCommands.lean ====
section
/-! DEFINITION. The seven commands that address no voice; each ignores the channel selector
(30_encoding.md R91). Each meaning is one whole `FetchExecute` from a state whose cursor is on the opcode
byte: the cursor moves past the command's bytes first, as the fetches do (44_tracker.md R201). -/

namespace Sys2Proof.Machine

/-- NoAction: only the cursor moves (44_tracker.md R210). -/
def execNoAction (s : State) : Host.Outcome State Fault Refusal := .next (s.advance 1)

/-- SetTempo: the tempo clock's compare from milliseconds, its counter cleared (44_tracker.md R211). -/
def execSetTempo (w : Word) (s : State) : Host.Outcome State Fault Refusal :=
  .next { s.advance 3 with
    tempo := s.tempo.setCompare ((msToTicks s.params.sampleRate w).setWidth 32) }

/-- SetGlobalVolume (44_tracker.md R214). -/
def execSetGlobalVolume (b : Byte) (s : State) : Host.Outcome State Fault Refusal :=
  .next ((s.advance 2).setGlobalVolume b)

/-- EndOfStream: halts terminally and signals the stream's end (44_tracker.md R217). -/
def execEndOfStream (s : State) : Host.Outcome State Fault Refusal := .next (s.advance 1).halt

/-- SoftwareReset: the mixer's reset (44_tracker.md R218). -/
def execSoftwareReset (s : State) : Host.Outcome State Fault Refusal :=
  .next (s.advance 1).mixerReset

/-- JumpInFile: the cursor is the operand (44_tracker.md R222). -/
def execJumpInFile (w : Word) (s : State) : Host.Outcome State Fault Refusal :=
  .next { s with cursor := w }

/-- DirectExec: the next `b` commands run in this tick before anything that was outstanding, and, as the call
reports more-ready, no further top-level call follows (44_tracker.md R224, R200). A nested one runs its
own count first (R226). Log 16. -/
def execDirectExec (b : Byte) (s : State) : Host.Outcome State Fault Refusal :=
  .next { s.advance 2 with
    slots := 0
    direct := if repeatCount b = 0 then s.direct else repeatCount b :: s.direct }

end Sys2Proof.Machine
end

