-- ==== Sys2Proof/Machine/VoiceCommands.lean ====
section
/-! DEFINITION. The commands that write an oscillator field or the volume of a voice. A channel selector at or
above N leaves every voice alone (30_encoding.md R90). Each meaning is one whole `FetchExecute` from a
state whose cursor is on the opcode byte (44_tracker.md R201). -/

namespace Sys2Proof.Machine

/-- SetWave (44_tracker.md R212). -/
def execSetWave (ch : Nibble) (b : Byte) (s : State) : Host.Outcome State Fault Refusal :=
  .next ((s.advance 2).setWave (channelIndex ch) b)

/-- SetVolume (44_tracker.md R213). -/
def execSetVolume (ch : Nibble) (b : Byte) (s : State) : Host.Outcome State Fault Refusal :=
  .next ((s.advance 2).setVolume (channelIndex ch) b)

/-- SetDuty (44_tracker.md R223). -/
def execSetDuty (ch : Nibble) (b : Byte) (s : State) : Host.Outcome State Fault Refusal :=
  .next ((s.advance 2).setDuty (channelIndex ch) b)

/-- SyncOscillator: the addressed voice is written, the operand's voice is read (44_tracker.md R219). -/
def execSyncOscillator (ch : Nibble) (b : Byte) (s : State) : Host.Outcome State Fault Refusal :=
  .next ((s.advance 2).syncOscillators (channelIndex ch) (sourceIndex b))

/-- ResetOscillator (44_tracker.md R220). -/
def execResetOscillator (ch : Nibble) (s : State) : Host.Outcome State Fault Refusal :=
  .next ((s.advance 1).resetOscillator (channelIndex ch))

end Sys2Proof.Machine
end

