-- ==== Sys2Proof/Machine/Dispatch.lean ====
section
/-! DEFINITION. The meaning of each command: one arm per constructor of `Instr` (44_tracker.md R201). -/

namespace Sys2Proof.Machine

def exec (i : Instr) (s : State) : Host.Outcome State Fault Refusal :=
  match i with
  | .noAction _ => Sys2Proof.Machine.execNoAction s
  | .setTempo _ w => Sys2Proof.Machine.execSetTempo w s
  | .setWave ch b => Sys2Proof.Machine.execSetWave ch b s
  | .setVolume ch b => Sys2Proof.Machine.execSetVolume ch b s
  | .setGlobalVolume _ b => Sys2Proof.Machine.execSetGlobalVolume b s
  | .noteOn ch b => Sys2Proof.Machine.execNoteOn ch b s
  | .noteOff ch => Sys2Proof.Machine.execNoteOff ch s
  | .endOfStream _ => Sys2Proof.Machine.execEndOfStream s
  | .softwareReset _ => Sys2Proof.Machine.execSoftwareReset s
  | .syncOscillator ch b => Sys2Proof.Machine.execSyncOscillator ch b s
  | .resetOscillator ch => Sys2Proof.Machine.execResetOscillator ch s
  | .setADSR ch b => Sys2Proof.Machine.execSetADSR ch b s
  | .jumpInFile _ w => Sys2Proof.Machine.execJumpInFile w s
  | .setDuty ch b => Sys2Proof.Machine.execSetDuty ch b s
  | .directExec _ b => Sys2Proof.Machine.execDirectExec b s
  | .setADSRValues ch attack decay level release => Sys2Proof.Machine.execSetADSRValues ch attack decay level release s

end Sys2Proof.Machine
end

