-- ==== Sys2Proof/Machine/Boundary.lean ====
section
/-! DEFINITION. What arrives between sample ticks: the Reset event (70_reset_and_hazards.md R270) and the
operations of the optional host port (60_exceptions.md R248). -/

namespace Sys2Proof.Machine

/-- `Reset()`: the table of 10_state.md R33 over the run's parameters (70_reset_and_hazards.md R270). Every
envelope timer holds (0, 0) before the mixer's reset. It emits nothing; what lies outside the hardware
(the stream, the parameters, the inbox and the record of outputs) stays. Log 15. -/
def State.hardReset (s : State) : State :=
  let zeroed : State :=
    { s with
      voices := s.voices.map fun v =>
        { v with env := { v.env with timer := { compare := 0#32, counter := 0#32 } } } }
  { zeroed.mixerReset with
    tempo := { compare := s.params.tempoDefaultCompare, counter := 0#32 }
    cursor := 0#16
    halted := false
    noise := s.params.noiseSeed
    presets := s.params.presetInit
    tickPhase := .idle
    slots := 0
    direct := [] }

/-- A host operation, with the semantics a command that calls it has (60_exceptions.md R248). -/
def State.applyHostOp (s : State) : HostOp → State
  | .mixerReset => s.mixerReset
  | .setWave c w => s.setWave c w
  | .setVolume c v => s.setVolume c v
  | .setGlobalVolume v => s.setGlobalVolume v
  | .setDuty c d => s.setDuty c d
  | .noteOn c n => s.noteOn c n
  | .noteOff c => s.noteOff c
  | .syncOscillators a b => s.syncOscillators a b
  | .resetOscillator c => s.resetOscillator c
  | .setAdsr c k => s.setAdsr c k
  | .envConfigure k a d level r => s.envConfigure k.toNat a d level r

end Sys2Proof.Machine
end

