-- ==== Sys2Proof/Machine/Tick.lean ====
section
/-! DEFINITION. The sample tick cut into its parts (43_mixer.md R170, 44_tracker.md R200): its beginning, the
book-keeping around each `FetchExecute`, and what the machine does between ticks. Log 1. -/

namespace Sys2Proof.Machine

/-- Takes one outstanding `FetchExecute` call: from the innermost DirectExec loop if one is running, else
from the burst's loop (44_tracker.md R200, R224). -/
def State.takeCall (s : State) : State :=
  match s.direct with
  | [] => { s with slots := s.slots - 1 }
  | k :: rest => { s with direct := if k ≤ 1 then rest else (k - 1) :: rest }

/-- Where the tick goes on after a command. Halted: every loop is left and the tick ends with no synthesis
and no sample (44_tracker.md R200, R217, R224, 43_mixer.md R170). No call outstanding: `Synth` is next.
Else the next command. -/
def State.settle (s : State) : State :=
  if s.halted then { s with tickPhase := .idle, slots := 0, direct := [] }
  else if s.burstDone then { s with tickPhase := .synth }
  else { s with tickPhase := .burst }

/-- A burst of N calls, the cursor wrapped to 0 if it is past the end of the stream
(44_tracker.md R200, 20_memory.md R67). -/
def State.startBurst (s : State) : State :=
  { s with
    cursor := if s.pastEnd then 0#16 else s.cursor
    slots := s.numVoices
    direct := [] }

/-- The beginning of `SampleTick()` up to the first command or to `Synth`: ignored when halted; the tempo
clock ticks; on its firing a burst starts (43_mixer.md R170, 44_tracker.md R200). -/
def State.beginTick (s : State) : State :=
  if s.halted then s
  else
    let ticked := s.tempo.tick
    if ticked.1 then ({ s with tempo := ticked.2 } : State).startBurst.settle
    else { s with tempo := ticked.2, tickPhase := .synth }

/-- One moment between ticks: a Reset wins over what coincides with it (60_exceptions.md R249). -/
def State.deliver (s : State) (m : Moment) : State :=
  if m.reset then s.hardReset
  else
    match m.event with
    | some .sampleTick => s.beginTick
    | some (.hostOp op) => s.applyHostOp op
    | none => s

/-- The next moment of the outside world; with none listed the recurring SampleTick arrives
(60_exceptions.md R245). Log 15. -/
def State.acceptMoment (s : State) : State :=
  match s.inbox with
  | [] => s.beginTick
  | m :: rest => State.deliver { s with inbox := rest } m

/-- What a step makes of the outcome of a command: the tick goes on from the command's next state. -/
def settleOutcome : Host.Outcome State Fault Refusal → Host.Outcome State Fault Refusal
  | .next t => .next t.settle
  | .fault r => .fault r
  | .refused r => .refused r

end Sys2Proof.Machine
end

