-- ==== Sys2Proof/Machine/Step.lean ====
section
/-! DEFINITION. One step: what arrives between ticks, one command of a burst, or one synthesis
(43_mixer.md R170, log 1). -/

namespace Sys2Proof.Machine

/-- One step of the machine. Between ticks it takes the next moment of the outside world; in a burst it
fetches the command at the cursor and executes it, as one `FetchExecute` (44_tracker.md R201); at the
end of a tick it synthesises and emits one sample (43_mixer.md R171). -/
def step (s : State) : Host.Outcome State Fault Refusal :=
  match s.tickPhase with
  | .idle => .next s.acceptMoment
  | .burst =>
    match s.fetchInstr with
    | .ok i => settleOutcome (exec i s.takeCall)
    | .error r => .fault r
  | .synth => s.synth

/-- The state whose very next step fetches and runs the command of a table word: its bytes (zeros up to the
longest command) lie in the stream at the cursor, the stream is long enough to hold them, and a burst is
running, as after a tempo firing (44_tracker.md R200). The table's words are numbered by the default map, so
the state holds that map. Stands for loading a stream from outside; log 11. -/
def State.withFetchWord (s : State) (nbits w : Nat) : State :=
  { s with
    params := { s.params with opcodeMap := .tableOrder }
    stream := Memory.writeBytes s.stream s.cursor (tableBytes nbits w)
    streamLen := min 65536 (max s.streamLen (s.cursor.toNat + 8))
    halted := false
    tickPhase := .burst
    slots := max 1 s.numVoices
    direct := [] }

end Sys2Proof.Machine
end

