-- ==== Sys2Proof/Machine/WholeTick.lean ====
section
/-! DEFINITION. `SampleTick()` as one transition, in the recursive form the spec writes it
(43_mixer.md R170, 44_tracker.md R200, R201, R224). `step` does not use it: it is the specification that
statements compare runs of `step` with. The recursion has no bound in the spec (R226), so it takes fuel and
answers `none` when the fuel runs out: no fuel suffices for a tick that never ends
(70_reset_and_hazards.md R283, log 16). -/

namespace Sys2Proof.Machine

/-- What a part of a tick answers; `none`: the fuel ran out. -/
abbrev TickResult (α : Type) := Option (Host.Outcome α Fault Refusal)

/-- The loop of DirectExec: `n` calls, left when halted, their results ignored (44_tracker.md R224). -/
def repeatCalls (call : State → TickResult (State × Bool)) : Nat → State → TickResult State
  | 0, s => some (.next s)
  | n + 1, s =>
    if s.halted then some (.next s)
    else
      match call s with
      | some (.next (t, _)) => repeatCalls call n t
      | some (.fault r) => some (.fault r)
      | some (.refused r) => some (.refused r)
      | none => none

/-- `FetchExecute()` and its more-ready result (44_tracker.md R201, R224). -/
def fetchExecute : Nat → State → TickResult (State × Bool)
  | 0 => fun _ => none
  | fuel + 1 => fun s =>
    match s.fetchInstr with
    | .error r => some (.fault r)
    | .ok (.directExec _ b) =>
      match repeatCalls (fetchExecute fuel) (repeatCount b) (s.advance 2) with
      | some (.next t) => some (.next (t, true))
      | some (.fault r) => some (.fault r)
      | some (.refused r) => some (.refused r)
      | none => none
    | .ok i =>
      match exec i s with
      | .next t => some (.next (t, moreReady i))
      | .fault r => some (.fault r)
      | .refused r => some (.refused r)

/-- The loop of `TempoTick()`: at most `n` calls, left when halted or when a call reports more-ready
(44_tracker.md R200). -/
def burstCalls (call : State → TickResult (State × Bool)) : Nat → State → TickResult State
  | 0, s => some (.next s)
  | n + 1, s =>
    match call s with
    | some (.next (t, more)) => if t.halted || more then some (.next t) else burstCalls call n t
    | some (.fault r) => some (.fault r)
    | some (.refused r) => some (.refused r)
    | none => none

/-- `TempoTick()` (44_tracker.md R200). -/
def tempoTick (fuel : Nat) (s : State) : TickResult State :=
  let ticked := s.tempo.tick
  if ticked.1 then
    burstCalls (fetchExecute fuel) s.numVoices
      { s with tempo := ticked.2, cursor := if s.pastEnd then 0#16 else s.cursor }
  else some (.next { s with tempo := ticked.2 })

/-- `SampleTick()` (43_mixer.md R170). -/
def sampleTick (fuel : Nat) (s : State) : TickResult State :=
  if s.halted then some (.next s)
  else
    match tempoTick fuel s with
    | some (.next t) => if t.halted then some (.next t) else some t.synth
    | some (.fault r) => some (.fault r)
    | some (.refused r) => some (.refused r)
    | none => none

end Sys2Proof.Machine
end

