-- ==== Sys2Proof/Safety.lean ====
section
/-! DEFINITION. The terms statements use: the legal states (10_state.md R38), the frame of a voice command, and
the runs of a timer and of an envelope. -/

namespace Sys2Proof.Machine

/-! ### Legal states -/

/-- "counter < compare" between ticks for a timer whose compare is nonzero (10_state.md R38, R25). -/
abbrev SubTimer.Armed (t : SubTimer) : Prop :=
  t.compare = 0#32 ∨ t.counter.toNat < t.compare.toNat

/-- An envelope of a machine with `presetCount` presets (10_state.md R38). -/
abbrev Envelope.Legal (presetCount : Nat) (e : Envelope) : Prop :=
  e.type.toNat ≤ presetCount ∧ e.timer.compare.toNat ≤ 2 ^ 31 ∧ e.timer.counter.toNat < 2 ^ 31 ∧
  e.timer.Armed

/-- The three maps of a run for `n` voices: OPCODE_MAP a bijection, WAVE_MAP an injection, REMAP with a value
for every sum (00_scope.md R7). -/
abbrev Params.MapsLegal (p : Params) (n : Nat) : Prop :=
  p.opcodeMap.Bijective ∧ p.waveMap.Injective ∧ p.remap.sized n = true

/-- The sizes and parameters of a run (00_scope.md R6 to R8) and the canonical form of the stream (log 10). -/
abbrev State.ConfigLegal (s : State) : Prop :=
  1 ≤ s.numVoices ∧ s.numVoices ≤ 16 ∧ s.numPresets ≤ 16 ∧ 1 ≤ s.params.sampleRate ∧
  s.params.presetInit.length = s.numPresets ∧ s.params.MapsLegal s.numVoices ∧ s.streamLen ≤ 65536 ∧ s.stream.wf = true ∧
  ∀ cell ∈ s.stream, cell.1 < s.streamLen

/-- The book-keeping of the tick in progress (log 1): no call outstanding outside a burst, one outstanding
inside, DirectExec counters in 1..255, no top-level call left while a DirectExec runs, and a halted
machine is between ticks. -/
abbrev State.TickLegal (s : State) : Prop :=
  (s.tickPhase = .burst → s.burstDone = false) ∧
  (s.tickPhase ≠ .burst → s.slots = 0 ∧ s.direct = []) ∧
  (s.halted = true → s.tickPhase = .idle) ∧
  s.slots ≤ s.numVoices ∧ (s.direct ≠ [] → s.slots = 0) ∧
  ∀ k ∈ s.direct, 1 ≤ k ∧ k ≤ 255

/-- The legal states: what 10_state.md R38 says of every state reachable from hardware reset, the
parameters in their ranges, and the book-keeping of the tick. -/
abbrev State.Legal (s : State) : Prop :=
  s.ConfigLegal ∧ s.tempo.Armed ∧ (∀ v ∈ s.voices, v.env.Legal s.numPresets) ∧ s.TickLegal

/-- Every voice's waveform register holds one of the seven codes (30_encoding.md R88). -/
abbrev State.WaveformsDefined (s : State) : Prop := ∀ v ∈ s.voices, v.waveform ∈ s.params.waveMap.codes

/-! ### Frames -/

/-- Every byte of the stream reads as before (20_memory.md R66). -/
def KeepsMemory (s t : State) : Prop := ∀ a, t.memRead1 a = s.memRead1 a

/-- `t` is `s` with the cursor moved past `len` bytes and voice `ch`, if there is one, changed by `f`;
every other voice, every other field and every byte of the stream is as before (43_mixer.md R185). -/
def WritesVoice (s t : State) (ch len : Nat) (f : Voice → Voice) : Prop :=
  t = { s with cursor := s.cursor + BitVec.ofNat 16 len, voices := t.voices } ∧
  (∀ c, t.voices[c]? = if c = ch then (s.voices[c]?).map f else s.voices[c]?) ∧
  KeepsMemory s t

/-- The command answers a next state with this property. -/
def Completes (i : Instr) (s : State) (post : State → Prop) : Prop :=
  ∃ t, exec i s = .next t ∧ post t

/-- The same state in a run with another OPCODE_MAP (00_scope.md R7). -/
def State.withOpcodeMap (s : State) (m : OpcodeMap) : State :=
  { s with params := { s.params with opcodeMap := m } }

/-! ### The literal fetch sequence -/

/-- Fetches a byte operand (44_tracker.md R203). -/
def State.fetchByteOperand (s : State) (mk : Byte → Instr) : Option (Instr × State) :=
  s.fetch8.map fun r => (mk r.1, r.2)

/-- Fetches a word operand (44_tracker.md R204). -/
def State.fetchWordOperand (s : State) (mk : Word → Instr) : Option (Instr × State) :=
  s.fetch16.map fun r => (mk r.1, r.2)

/-- The operand fetches of a command, in its rule's order (44_tracker.md R210 to R225). -/
def State.fetchOperands (s : State) (ch : Nibble) : Command → Option (Instr × State)
  | .noAction => some (.noAction ch, s)
  | .setTempo => s.fetchWordOperand (.setTempo ch)
  | .setWave => s.fetchByteOperand (.setWave ch)
  | .setVolume => s.fetchByteOperand (.setVolume ch)
  | .setGlobalVolume => s.fetchByteOperand (.setGlobalVolume ch)
  | .noteOn => s.fetchByteOperand (.noteOn ch)
  | .noteOff => some (.noteOff ch, s)
  | .endOfStream => some (.endOfStream ch, s)
  | .softwareReset => some (.softwareReset ch, s)
  | .syncOscillator => s.fetchByteOperand (.syncOscillator ch)
  | .resetOscillator => some (.resetOscillator ch, s)
  | .setADSR => s.fetchByteOperand (.setADSR ch)
  | .jumpInFile => s.fetchWordOperand (.jumpInFile ch)
  | .setDuty => s.fetchByteOperand (.setDuty ch)
  | .directExec => s.fetchByteOperand (.directExec ch)
  | .setADSRValues =>
    match s.fetch16 with
    | none => none
    | some (a, s1) =>
      match s1.fetch16 with
      | none => none
      | some (d, s2) =>
        match s2.fetch8 with
        | none => none
        | some (level, s3) => s3.fetchWordOperand (.setADSRValues ch a d level)

/-- The fetches of one `FetchExecute()`: the opcode byte by `Fetch8`, then the operands, each at the cursor
and each moving it (44_tracker.md R201, 30_encoding.md R82). -/
def State.fetchSequence (s : State) : Option (Instr × State) :=
  match s.fetch8 with
  | none => none
  | some (op, s1) => s1.fetchOperands (chField op) (s.params.opcodeMap.command (cmdField op))

/-! ### Runs of a timer and of an envelope -/

/-- A timer after `n` calls with one increment. -/
def SubTimer.run (step : DWord) : Nat → SubTimer → SubTimer
  | 0, t => t
  | n + 1, t => ((SubTimer.run step n t).tickInc step).2

/-- The fired bit of call `n + 1`. -/
def SubTimer.firesAt (step : DWord) (n : Nat) (t : SubTimer) : Bool :=
  ((SubTimer.run step n t).tickInc step).1

/-- The firing period in calls, `max(1, ceil(C / s))` (40_subtimer.md R104). -/
def firingPeriod (compare step : Nat) : Nat := max 1 ((compare + step - 1) / step)

/-- An envelope after `n` calls of `EnvSample`. -/
def envRun (presets : List Preset) : Nat → Envelope → Envelope
  | 0, e => e
  | n + 1, e => (envSample presets (envRun presets n e)).2

/-- The value returned by call `j` of `EnvSample`, `j` counted from 1. -/
def envCall (presets : List Preset) (j : Nat) (e : Envelope) : Byte :=
  (envSample presets (envRun presets (j - 1) e)).1

/-- The first firings' spacing for a phase with this compare value: `K(C)` of 42_envelope.md R143. -/
def envPeriod (compare : DWord) : Nat := firingPeriod compare.toNat 1024

end Sys2Proof.Machine

namespace Sys2Proof.Machine

/-! ### Numbers -/

/-- `c` is the least integer at or above the rational `a / b` (00_scope.md R11). -/
def IsCeilDiv (c a b : Nat) : Prop := a ≤ c * b ∧ c * b < a + b

/-- The timer armed for a phase of `steps` unit steps in `ticks` sample ticks: the counter cleared, the
compare value 0 for no steps and else `ceil(ticks * 1024 / steps)` (42_envelope.md R132). -/
def ArmedFor (t : SubTimer) (ticks : Word) (steps : Nat) : Prop :=
  t.counter = 0#32 ∧
  (steps = 0 → t.compare = 0#32) ∧
  (steps ≠ 0 → IsCeilDiv t.compare.toNat (ticks.toNat * 1024) steps)

/-! ### The sum over the voices -/

/-- The noise state that voice `c` is sampled with: one generator step for every Noise voice before it
(41_oscillator.md R117). -/
def noiseBefore (s : State) (c : Nat) : DWord :=
  noiseNext^[((s.voices.take c).filter fun v => v.waveform == s.params.waveMap.noise).length] s.noise

/-- What voice `c` adds to the accumulator: its scaled sample less 127 (43_mixer.md R171). -/
def contribution (s : State) (c : Nat) : Int :=
  match s.voices[c]? with
  | none => 0
  | some v =>
    match oscSample s.params (noiseBefore s c) v with
    | none => 0
    | some (o, _) =>
      ((scaledSample s.params.scaleMode o (envSample s.presets v.env).1 v.volume).toNat : Int) - 127

/-- The accumulator of a tick as one sum over the voice indices (43_mixer.md R171). -/
def accumulator (s : State) : Int := ((List.range s.numVoices).map (contribution s)).sum

/-! ### Commands and host operations -/

/-- The host operation a command performs, for the commands whose operation does not depend on the state
(60_exceptions.md R248, 44_tracker.md R210 to R225). -/
def hostOpOf : Instr → Option HostOp
  | .setWave ch b => some (.setWave ch.toNat b)
  | .setVolume ch b => some (.setVolume ch.toNat b)
  | .setGlobalVolume _ b => some (.setGlobalVolume b)
  | .noteOn ch b => some (.noteOn ch.toNat (noteIndex b))
  | .noteOff ch => some (.noteOff ch.toNat)
  | .softwareReset _ => some .mixerReset
  | .syncOscillator ch b => some (.syncOscillators ch.toNat (sourceIndex b))
  | .resetOscillator ch => some (.resetOscillator ch.toNat)
  | .setADSR ch b => some (.setAdsr ch.toNat b)
  | .setDuty ch b => some (.setDuty ch.toNat b)
  | .noAction _ => none
  | .setTempo _ _ => none
  | .endOfStream _ => none
  | .jumpInFile _ _ => none
  | .directExec _ _ => none
  | .setADSRValues _ _ _ _ _ => none

/-- The voices a host operation names (60_exceptions.md R248, 43_mixer.md R185). -/
def HostOp.voices : HostOp → List Nat
  | .setWave c _ | .setVolume c _ | .setDuty c _ | .noteOn c _ | .noteOff c | .resetOscillator c
  | .setAdsr c _ => [c]
  | .syncOscillators a b => [a, b]
  | .mixerReset | .setGlobalVolume _ | .envConfigure _ _ _ _ _ => []

/-- The `FetchExecute` calls a burst has outstanding (44_tracker.md R200, R224). -/
def State.outstanding (s : State) : Nat := s.slots + s.direct.sum

end Sys2Proof.Machine
end

