-- ==== Sys2Proof/Certificates/Slice0/Obligations.lean ====
section
/-! DEFINITION. The statements about the GCG synth core. Each docstring names the rules of `spec/` it
formalises. -/

open Sys2Proof Sys2Proof.Machine

/-! ### Encoding -/

/-- Under every legal OPCODE_MAP decode and encode agree on every command with every operand, whatever bytes
follow (30_encoding.md R80 to R87). -/
def Obligations.DecodeOfEncodeIsTheCommand : Prop :=
  ∀ m : OpcodeMap, m.Bijective →
    ∀ (i : Instr) (rest : List Byte), decode m (encode m i ++ rest) = .ok (i, rest)

/-- The bytes a command was decoded from are its encoding followed by the bytes left over: no bit of a
command's bytes is dropped, under any legal OPCODE_MAP (30_encoding.md R82). -/
def Obligations.DecodedBytesAreTheEncoding : Prop :=
  ∀ m : OpcodeMap, m.Bijective → ∀ (bytes : List Byte) (i : Instr) (rest : List Byte),
    decode m bytes = .ok (i, rest) → encode m i ++ rest = bytes

/-- Every opcode byte names a command, whose length is 1, 2, 3 or 8 by its command number alone (the numbers of
the first clause are those of the default OPCODE_MAP, the rest holds for every map), and the decoder rejects exactly when fewer bytes than that are left (30_encoding.md R92, R93). -/
def Obligations.DecodeRejectsOnlyMissingBytes : Prop :=
  (∀ n : Nibble,
    (OpcodeMap.tableOrder.command n).format.length =
      if n.toNat ∈ [0, 6, 7, 8, 10] then 1
      else if n.toNat ∈ [2, 3, 4, 5, 9, 11, 13, 14] then 2
      else if n.toNat ∈ [1, 12] then 3 else 8) ∧
  ∀ (m : OpcodeMap) (op : Byte) (rest : List Byte),
    (rest.length + 1 < (m.command (cmdField op)).format.length →
      decode m (op :: rest) = .error .truncated) ∧
    ((m.command (cmdField op)).format.length ≤ rest.length + 1 →
      ∃ i, decode m (op :: rest) = .ok (i, (op :: rest).drop i.length) ∧
        i.command = m.command (cmdField op) ∧ i.channel = chField op)

/-- Words written out from the opcode table and the assembler notation, one for each family, in the default
numbering (30_encoding.md R82, R83, R94). -/
def Obligations.WrittenWordsDecode : Prop :=
  decode .tableOrder [0x0F#8] = .ok (.noAction 15#4, []) ∧
  decode .tableOrder [0x10#8, 0x00#8, 0xC8#8] = .ok (.setTempo 0#4 200#16, []) ∧
  decode .tableOrder [0x21#8, 0x03#8] = .ok (.setWave 1#4 3#8, []) ∧
  decode .tableOrder [0x50#8, 0xBC#8] = .ok (.noteOn 0#4 0xBC#8, []) ∧
  decode .tableOrder [0x91#8, 0xF0#8] = .ok (.syncOscillator 1#4 0xF0#8, []) ∧
  decode .tableOrder [0xC0#8, 0x12#8, 0x34#8] = .ok (.jumpInFile 0#4 0x1234#16, []) ∧
  decode .tableOrder [0xF1#8, 0x00#8, 0x01#8, 0x00#8, 0x0A#8, 0x64#8, 0x00#8, 0x64#8] =
    .ok (.setADSRValues 1#4 1#16 10#16 100#8 100#16, [])

/-! ### Fetching -/

/-- In a burst, the command whose bytes lie at the cursor is the one that the step runs: the step takes one
outstanding call, executes the command and settles where the tick goes on, which is the model's cut of a tick
into steps, log 1 (44_tracker.md R201). -/
def Obligations.StepRunsTheDecodedCommand : Prop :=
  ∀ (s t : State) (i : Instr) (rest : List Byte),
    s.tickPhase = .burst → decode s.params.opcodeMap s.window = .ok (i, rest) → exec i s.takeCall = .next t →
    step s = .next t.settle

/-- A command whose encoded bytes all exist at the cursor, addresses modulo 65536, is what is fetched; its
bytes are read from nowhere else; under every legal OPCODE_MAP (44_tracker.md R201, R203,
30_encoding.md R82, R83). -/
def Obligations.FetchReadsTheBytesAtTheCursor : Prop :=
  ∀ (s : State) (i : Instr), s.params.opcodeMap.Bijective →
    ((∀ k, k < i.length →
        s.memRead1 (s.cursor + BitVec.ofNat 16 k) = (encode s.params.opcodeMap i)[k]?) ↔
      s.fetchInstr = .ok i)

/-- A burst step faults with StreamOverrun exactly when a byte of the command at the cursor lies at or above
STREAM_LEN, and no other step faults (20_memory.md R68). The spec gives the reason alone: that the fault names
the first missing address and stops the whole command before any effect is the model's, log 12 (DEDUCED). -/
def Obligations.StepFaultsOnlyOnStreamOverrun : Prop :=
  ∀ (s : State) (r : Fault),
    step s = .fault r ↔
      s.tickPhase = .burst ∧
      ∃ k, r = .streamOverrun (s.cursor + BitVec.ofNat 16 k) ∧
        s.streamLen ≤ (s.cursor + BitVec.ofNat 16 k).toNat ∧
        (∀ j, j < k → (s.cursor + BitVec.ofNat 16 j).toNat < s.streamLen) ∧
        (k = 0 ∨ ∃ op, s.memRead1 s.cursor = some op ∧
          k < (s.params.opcodeMap.command (cmdField op)).format.length)

/-- Fetching the opcode byte and the operands one after the other, by `Fetch8` and `Fetch16`, gives the
command that the step fetches and leaves the cursor past its bytes; it fails where the step's fetch does
(44_tracker.md R201, R203, R204). -/
def Obligations.FetchSequenceAgreesWithTheDecoder : Prop :=
  ∀ s : State,
    s.fetchSequence =
      match s.fetchInstr with
      | .ok i => some (i, s.advance i.length)
      | .error _ => none

/-- A word read is the two byte reads, the lower address in bits 15:8; it has no result when either byte has
none (20_memory.md R63, R68). -/
def Obligations.WordReadIsBigEndian : Prop :=
  ∀ (s : State) (a : Word),
    (∀ hi lo, s.memRead1 a = some hi → s.memRead1 (a + 1#16) = some lo →
      ∃ w, s.memRead2 a = some w ∧ w.toNat = hi.toNat * 256 + lo.toNat) ∧
    (s.memRead1 a = none ∨ s.memRead1 (a + 1#16) = none → s.memRead2 a = none)

/-- The state that the host prepares for a table word runs, as its very next step, the command that the
decoder reads from that word (30_encoding.md R82, R83; the load itself is the model's, log 11). -/
def Obligations.PreparedWordRunsNext : Prop :=
  ∀ (s : State) (nbits w : Nat), s.stream.wf = true →
    ∃ i, decodeTableWord nbits w = some i ∧
      step (s.withFetchWord nbits w) = settleOutcome (exec i (s.withFetchWord nbits w).takeCall)

/-! ### The commands -/

/-- NoAction moves the cursor by 1 and JumpInFile sets it to its operand; both change nothing else
(44_tracker.md R210, R222). -/
def Obligations.CursorCommandsChangeOnlyTheCursor : Prop :=
  (∀ ch s, Completes (.noAction ch) s fun t =>
    t = { s with cursor := s.cursor + 1#16 } ∧ KeepsMemory s t) ∧
  (∀ ch w s, Completes (.jumpInFile ch w) s fun t =>
    t = { s with cursor := w } ∧ KeepsMemory s t)

/-- SetTempo writes the tick count of its millisecond operand, zero-extended, to the tempo clock's compare
value and clears its counter; in the conversion's domain that count is `SAMPLE_RATE div (1000 div w) - 1`.
Nothing else changes but the cursor (44_tracker.md R211, 42_envelope.md R145, 40_subtimer.md R102). -/
def Obligations.SetTempoArmsTheTempoClock : Prop :=
  ∀ ch w s, Completes (.setTempo ch w) s fun t =>
    t = { s with cursor := s.cursor + 3#16, tempo := t.tempo } ∧ KeepsMemory s t ∧
    t.tempo.counter = 0#32 ∧
    t.tempo.compare.toNat = (msToTicks s.params.sampleRate w).toNat ∧
    (1 ≤ w.toNat → w.toNat ≤ 1000 → 1 ≤ s.params.sampleRate / (1000 / w.toNat) →
      s.params.sampleRate / (1000 / w.toNat) ≤ 65536 →
      t.tempo.compare.toNat + 1 = s.params.sampleRate / (1000 / w.toNat))

/-- SetWave, SetVolume and SetDuty store their byte, whatever it is, in one field of the addressed voice, and
ResetOscillator zeroes its phase; with a channel at or above N no voice changes (43_mixer.md R177, R178,
R180, R184, R185). -/
def Obligations.FieldCommandsWriteOneFieldOfTheVoice : Prop :=
  (∀ ch b s, Completes (.setWave ch b) s fun t =>
    WritesVoice s t ch.toNat 2 fun v => { v with waveform := b }) ∧
  (∀ ch b s, Completes (.setVolume ch b) s fun t =>
    WritesVoice s t ch.toNat 2 fun v => { v with volume := b }) ∧
  (∀ ch b s, Completes (.setDuty ch b) s fun t =>
    WritesVoice s t ch.toNat 2 fun v => { v with duty := b }) ∧
  (∀ ch s, Completes (.resetOscillator ch) s fun t =>
    WritesVoice s t ch.toNat 1 fun v => { v with phase := 0#8 })

/-- SetGlobalVolume stores its byte in the global volume and changes nothing else but the cursor
(43_mixer.md R179, 44_tracker.md R214). -/
def Obligations.SetGlobalVolumeStoresItsByte : Prop :=
  ∀ ch b s, Completes (.setGlobalVolume ch b) s fun t =>
    t = { s with cursor := s.cursor + 2#16, globalVolume := b } ∧ KeepsMemory s t

/-- SyncOscillator copies the phase of the voice that the operand's low nibble names into the addressed voice;
when either index is at or above N no voice changes (43_mixer.md R183, 44_tracker.md R219). Which voice is
written and which is read is the spec's own decision D23. -/
def Obligations.SyncOscillatorCopiesThePhase : Prop :=
  ∀ ch (b : Byte) s, Completes (.syncOscillator ch b) s fun t =>
    (∀ source, s.voices[b.toNat % 16]? = some source →
      WritesVoice s t ch.toNat 2 fun v => { v with phase := source.phase }) ∧
    (s.numVoices ≤ b.toNat % 16 → t = { s with cursor := s.cursor + 2#16 } ∧ KeepsMemory s t)

/-- NoteOn takes the tuning word from entry `b & 0x7F` of FREQ_TABLE and restarts the envelope in Attack: value
0, not ended, the timer armed for 255 steps in the preset's attack duration, compare 0 when the voice is
bypassed; phase, waveform, duty, volume and preset index stay (43_mixer.md R181, 42_envelope.md R133,
R138). -/
def Obligations.NoteOnTunesAndRestartsTheEnvelope : Prop :=
  ∀ ch (b : Byte) s, Completes (.noteOn ch b) s fun t =>
    (∃ f, WritesVoice s t ch.toNat 2 f) ∧
    ∀ v, s.voices[ch.toNat]? = some v → ∃ v', t.voices[ch.toNat]? = some v' ∧
      v' = { v with tuningWord := v'.tuningWord, env := v'.env } ∧
      some v'.tuningWord = s.params.freqTable.toList[b.toNat % 128]? ∧
      v'.env = { v.env with value := 0#8, state := .attack, ended := false, timer := v'.env.timer } ∧
      (v.env.type = 0#5 → v'.env.timer = { compare := 0#32, counter := 0#32 }) ∧
      ∀ p, v.env.type ≠ 0#5 → s.presets[v.env.type.toNat - 1]? = some p →
        ArmedFor v'.env.timer p.attackTicks 255

/-- NoteOff zeroes the tuning word of a bypassed voice; otherwise it leaves an ended envelope as it is and takes
any other to Release: value forced to the sustain level, the timer armed for that many steps in the release
duration (43_mixer.md R182, 42_envelope.md R136). -/
def Obligations.NoteOffStopsOrReleases : Prop :=
  ∀ ch s, Completes (.noteOff ch) s fun t =>
    (∃ f, WritesVoice s t ch.toNat 1 f) ∧
    ∀ v, s.voices[ch.toNat]? = some v → ∃ v', t.voices[ch.toNat]? = some v' ∧
      (v.env.type = 0#5 → v' = { v with tuningWord := 0#8 }) ∧
      (v.env.type ≠ 0#5 → v.env.ended = true → v' = v) ∧
      ∀ p, v.env.type ≠ 0#5 → v.env.ended = false → s.presets[v.env.type.toNat - 1]? = some p →
        v' = { v with env := v'.env } ∧
        v'.env = { v.env with value := p.sustainLevel, state := .release, timer := v'.env.timer } ∧
        ArmedFor v'.env.timer p.releaseTicks p.sustainLevel.toNat

/-- EndOfStream sets the halted flag, signals the stream's end once and changes nothing else but the cursor
(44_tracker.md R217). -/
def Obligations.EndOfStreamHaltsAndSignals : Prop :=
  ∀ ch s, Completes (.endOfStream ch) s fun t =>
    t = { s with cursor := s.cursor + 1#16, halted := true, outputs := .streamEnd :: s.outputs } ∧
    KeepsMemory s t

/-- SoftwareReset gives every voice its reset values and zeroes the global volume; tempo clock, noise state,
presets and everything else but the cursor stay (43_mixer.md R176, 10_state.md R34). The waveform is None, whose
code is 0 by the default WAVE_MAP and the map's own under another, log 9 (DEDUCED). -/
def Obligations.SoftwareResetResetsVoicesAndGlobalVolume : Prop :=
  ∀ ch s, Completes (.softwareReset ch) s fun t =>
    t = { s with cursor := s.cursor + 1#16, globalVolume := 0#8, voices := t.voices } ∧
    KeepsMemory s t ∧ t.numVoices = s.numVoices ∧
    ∀ v ∈ t.voices, v =
      { waveform := s.params.waveMap.none, duty := 127#8, tuningWord := 0#8, phase := 0#8, volume := 0#8,
        env := { type := 0#5, state := .attack, ended := true, value := 0#8,
                 timer := { compare := 0#32, counter := 0#32 } } }

/-- SetADSR with an index at most P selects that preset, restarts the envelope in Attack from it and marks it
ended; an index above P, like a channel at or above N, changes nothing but the cursor (43_mixer.md R186,
R185). -/
def Obligations.SetADSRAssignsThePresetAndEnds : Prop :=
  ∀ ch (b : Byte) s, s.numPresets ≤ 16 → Completes (.setADSR ch b) s fun t =>
    (s.numPresets < b.toNat → t = { s with cursor := s.cursor + 2#16 } ∧ KeepsMemory s t) ∧
    (b.toNat ≤ s.numPresets → (∃ f, WritesVoice s t ch.toNat 2 f) ∧
      ∀ v, s.voices[ch.toNat]? = some v → ∃ v', t.voices[ch.toNat]? = some v' ∧
        v' = { v with env := v'.env } ∧
        v'.env.type.toNat = b.toNat ∧ v'.env.state = .attack ∧ v'.env.value = 0#8 ∧
        v'.env.ended = true ∧
        (b = 0#8 → v'.env.timer = { compare := 0#32, counter := 0#32 }) ∧
        ∀ p, b ≠ 0#8 → s.presets[b.toNat - 1]? = some p → ArmedFor v'.env.timer p.attackTicks 255)

/-- DirectExec makes its count of commands outstanding in front of those that were, or none for a count of 0,
and ends the burst's own loop; nothing else changes but the cursor (44_tracker.md R224, R226). That this shows as
`slots` set to 0 and the count put in front of the list `direct` is the model's form of those rules, logs 1 and 16
(DESIGN CHOICE). -/
def Obligations.DirectExecMakesItsCommandsOutstanding : Prop :=
  ∀ ch (b : Byte) s, Completes (.directExec ch b) s fun t =>
    t = { s with cursor := s.cursor + 2#16, slots := 0, direct := t.direct } ∧ KeepsMemory s t ∧
    (b = 0#8 → t.direct = s.direct) ∧ (b ≠ 0#8 → t.direct = b.toNat :: s.direct)

/-- SetADSRValues rewrites the preset that the addressed voice selects, durations converted from milliseconds;
on a bypassed voice, a preset index above P or a channel at or above N it changes nothing but the cursor.
No voice changes (44_tracker.md R225, 42_envelope.md R144, R147). -/
def Obligations.SetADSRValuesRewritesTheSelectedPreset : Prop :=
  ∀ ch (a d : Word) (level : Byte) (r : Word) s, Completes (.setADSRValues ch a d level r) s fun t =>
    t = { s with cursor := s.cursor + 8#16, presets := t.presets } ∧ KeepsMemory s t ∧
    t.numPresets = s.numPresets ∧
    (∀ (k : Nat) v, s.voices[ch.toNat]? = some v → v.env.type.toNat = k + 1 → k < s.numPresets →
      t.presets[k]? = some
        { attackTicks := msToTicks s.params.sampleRate a,
          decayTicks := msToTicks s.params.sampleRate d,
          sustainLevel := level,
          releaseTicks := msToTicks s.params.sampleRate r }) ∧
    ∀ k : Nat, (∀ v, s.voices[ch.toNat]? = some v → v.env.type.toNat ≠ k + 1) →
      t.presets[k]? = s.presets[k]?

/-- No command can fault or be refused: from every state, every command with every operand gives a next state
(60_exceptions.md R240). -/
def Obligations.EveryCommandCompletes : Prop :=
  ∀ (i : Instr) (s : State), ∃ t, exec i s = .next t

/-- The seven commands that address no voice ignore the channel selector (30_encoding.md R91). -/
def Obligations.GlobalCommandsIgnoreTheChannel : Prop :=
  ∀ (i j : Instr) (s : State), i.command = j.command → i.command.addressesVoice = false →
    operandBytes i = operandBytes j → exec i s = exec j s

/-- A voice command with a channel at or above N changes no state except the cursor, which moves by the
command's full length; for SyncOscillator so it is when the operand's voice is at or above N
(30_encoding.md R90). -/
def Obligations.VoiceCommandsBeyondNAreNoOps : Prop :=
  (∀ (i : Instr) (s : State), i.command.addressesVoice = true → s.numVoices ≤ i.channel.toNat →
    exec i s = .next { s with cursor := s.cursor + BitVec.ofNat 16 i.length }) ∧
  ∀ (ch : Nibble) (b : Byte) (s : State), s.numVoices ≤ b.toNat % 16 →
    exec (.syncOscillator ch b) s = .next { s with cursor := s.cursor + 2#16 }

/-- A command leaves the cursor past its bytes, modulo 65536, but for JumpInFile, which leaves it at its operand
(44_tracker.md R228, 30_encoding.md R82). -/
def Obligations.CommandsMoveTheCursorByTheirLength : Prop :=
  ∀ (i : Instr) (s t : State), exec i s = .next t →
    ((∃ ch w, i = .jumpInFile ch w ∧ t.cursor = w) ∨
     ((∀ ch w, i ≠ .jumpInFile ch w) ∧
       t.cursor.toNat = (s.cursor.toNat + (encode s.params.opcodeMap i).length) % 65536))

/-! ### Whole-machine rules -/

/-- No step changes the stream, its length or a parameter (20_memory.md R66, 10_state.md R39). -/
def Obligations.StepsNeverWriteStreamOrParameters : Prop :=
  ∀ s t : State, step s = .next t →
    t.stream = s.stream ∧ t.streamLen = s.streamLen ∧ t.params = s.params ∧ KeepsMemory s t

/-- The halted flag is set by an EndOfStream command and by nothing else, and cleared by a Reset event only
(10_state.md R29, 60_exceptions.md R254). -/
def Obligations.HaltedIsSetByEndOfStreamClearedByReset : Prop :=
  ∀ s t : State, step s = .next t →
    (s.halted = false → t.halted = true →
      s.tickPhase = .burst ∧ ∃ ch, s.fetchInstr = .ok (.endOfStream ch)) ∧
    (s.halted = true → t.halted = false →
      s.tickPhase = .idle ∧ ∃ m rest, s.inbox = m :: rest ∧ m.reset = true)

/-- While halted, a SampleTick changes nothing and emits nothing (44_tracker.md R217, 60_exceptions.md R254). -/
def Obligations.HaltedIgnoresSampleTicks : Prop :=
  ∀ s : State, s.tickPhase = .idle → s.halted = true →
    (s.inbox = [] → step s = .next s) ∧
    ∀ rest, s.inbox = { reset := false, event := some .sampleTick } :: rest →
      step s = .next { s with inbox := rest }

/-- All the ways the cursor changes in a step: a command moves it past its bytes or jumps to its operand, a tempo
firing sets it to 0 when it is at or above STREAM_LEN, a Reset sets it to 0 (44_tracker.md R228). -/
def Obligations.CursorChangesOnlyByFetchJumpWrapAndReset : Prop :=
  ∀ s t : State, step s = .next t → t.cursor ≠ s.cursor →
    (s.tickPhase = .burst ∧ ∃ i, s.fetchInstr = .ok i ∧
      (t.cursor = s.cursor + BitVec.ofNat 16 i.length ∨ ∃ ch, i = .jumpInFile ch t.cursor)) ∨
    (s.tickPhase = .idle ∧ t.cursor = 0#16 ∧
      ((s.streamLen ≤ s.cursor.toNat ∧ t.tempo.counter = 0#32) ∨
       ∃ m rest, s.inbox = m :: rest ∧ m.reset = true))

/-- The noise state changes only in `Synth` and at a Reset (10_state.md R30). -/
def Obligations.NoiseChangesOnlyInSynthAndReset : Prop :=
  ∀ s t : State, step s = .next t → t.noise ≠ s.noise →
    s.tickPhase = .synth ∨
    (s.tickPhase = .idle ∧ ∃ m rest, s.inbox = m :: rest ∧ m.reset = true)

/-- The preset table changes only by SetADSRValues, by the host's EnvConfigure and at a Reset
(10_state.md R31, R34). -/
def Obligations.PresetsChangeOnlyByConfiguration : Prop :=
  ∀ s t : State, step s = .next t → t.presets ≠ s.presets →
    (s.tickPhase = .burst ∧ ∃ ch a d l r, s.fetchInstr = .ok (.setADSRValues ch a d l r)) ∨
    (s.tickPhase = .idle ∧ ∃ m rest, s.inbox = m :: rest ∧
      (m.reset = true ∨ ∃ k a d l r, m.event = some (.hostOp (.envConfigure k a d l r))))

/-- The only output events: one sample from each completed `Synth`, one stream end from each EndOfStream; every
other step outputs nothing (60_exceptions.md R247). -/
def Obligations.OutputsComeFromSynthAndEndOfStream : Prop :=
  ∀ s t : State, step s = .next t →
    (s.tickPhase = .synth → ∃ b, t.outputs = .sample b :: s.outputs) ∧
    (s.tickPhase = .burst → ∀ i, s.fetchInstr = .ok i →
      t.outputs = if i.command = .endOfStream then .streamEnd :: s.outputs else s.outputs) ∧
    (s.tickPhase = .idle → t.outputs = s.outputs)

/-- The legal states, which are what 10_state.md R38 says of the fields and the timers, the parameters in their
ranges and the model's own book-keeping of a tick (logs 1, 10), are kept by every step: commands, synthesis,
host operations and Reset alike. -/
def Obligations.EveryStepKeepsLegal : Prop :=
  ∀ s t : State, s.Legal → step s = .next t → t.Legal

/-- The state after reset, with the parameters that the model chooses (logs 2 to 6, 11), is legal (10_state.md R33,
R38). -/
def Obligations.ResetStateIsLegal : Prop := State.reset.Legal

/-- A step is refused exactly when `Synth` meets a voice whose waveform code is reserved (41_oscillator.md R119).
That the refusal names such a code and that no other step is refused is the model's, log 13 (DEDUCED). -/
def Obligations.OnlyReservedWaveformsAreRefused : Prop :=
  (∀ s r, step s = .refused r →
    s.tickPhase = .synth ∧ ∃ v ∈ s.voices, v.waveform ∉ s.params.waveMap.codes ∧
      r = .reservedWaveform v.waveform) ∧
  ∀ s : State, s.tickPhase = .synth → (∃ v ∈ s.voices, v.waveform ∉ s.params.waveMap.codes) →
    ∃ r, step s = .refused r

/-! ### The sample tick -/

/-- The beginning of a sample tick, whether the SampleTick is listed or arrives by itself: the tempo clock counts;
when it fires it restarts from 0, a cursor at or above STREAM_LEN wraps to 0 and a burst of N calls starts;
when it does not, `Synth` is next and nothing else changes (44_tracker.md R200, 40_subtimer.md R100). That a
SampleTick arrives by itself when none is listed is log 15, and that a burst is a phase with N slots is log 1
(both DESIGN CHOICE). -/
def Obligations.SampleTickBeginsWithTheTempoClock : Prop :=
  ∀ (s : State) (rest : List Moment), s.tickPhase = .idle →
    (s.inbox = [] ∧ rest = [] ∨ s.inbox = { reset := false, event := some .sampleTick } :: rest) →
    s.halted = false → 1 ≤ s.numVoices →
    (s.tempo.compare.toNat ≤ (s.tempo.counter + 1#32).toNat →
      step s = .next { s with
        tempo := { compare := s.tempo.compare, counter := 0#32 }
        cursor := if s.streamLen ≤ s.cursor.toNat then 0#16 else s.cursor
        tickPhase := .burst
        slots := s.numVoices
        direct := []
        inbox := rest }) ∧
    ((s.tempo.counter + 1#32).toNat < s.tempo.compare.toNat →
      step s = .next { s with
        tempo := { compare := s.tempo.compare, counter := s.tempo.counter + 1#32 }
        tickPhase := .synth
        inbox := rest })

/-- After a Reset, with the default compare value `C`, the first burst runs in sample tick `max(1, C)`, from stream
address 0, and every tick before it emits one sample 0 and changes nothing but the tempo clock's counter
(70_reset_and_hazards.md R273). That such a tick is two steps is log 1, and that ticks arrive from an empty inbox
is log 15 (both DESIGN CHOICE). -/
def Obligations.TicksAfterResetEmitZeroUntilTheFirstBurst : Prop :=
  ∀ (s : State) (j : Nat), s.inbox = [] → 1 ≤ s.numVoices → s.params.waveMap.Injective →
    j < max 1 s.params.tempoDefaultCompare.toNat →
    Host.Core.run Sys2Proof.core (2 * j) s.hardReset = .next { s.hardReset with
      tempo := { compare := s.params.tempoDefaultCompare, counter := BitVec.ofNat 32 j }
      outputs := List.replicate j (.sample 0#8) ++ s.outputs } ∧
    (j + 1 = max 1 s.params.tempoDefaultCompare.toNat →
      ∃ t : State, Host.Core.run Sys2Proof.core (2 * j + 1) s.hardReset = .next t ∧
        t.tickPhase = .burst ∧ t.slots = s.numVoices ∧ t.cursor = 0#16 ∧
        t.outputs = List.replicate j (.sample 0#8) ++ s.outputs)

/-- From counter 0, with a constant increment that does not overflow 32 bits, the calls that fire are exactly
every K-th call, K = max(1, ceil(C / s)), and the counter is 0 after each firing (40_subtimer.md R104,
R105). -/
def Obligations.SubTimerFiresEveryKthCall : Prop :=
  ∀ (t : SubTimer) (inc : DWord) (n : Nat), t.counter = 0#32 → 1 ≤ inc.toNat →
    t.compare.toNat + inc.toNat ≤ 2 ^ 32 →
    (t.firesAt inc n = true ↔ firingPeriod t.compare.toNat inc.toNat ∣ n + 1) ∧
    (t.firesAt inc n = true → SubTimer.run inc (n + 1) t = { compare := t.compare, counter := 0#32 })

/-- The work of a burst: every command uses up one outstanding call, DirectExec adds its count and drops the
burst's own remaining calls, EndOfStream ends the tick with no call outstanding; when none is left the
next step is the synthesis (44_tracker.md R200, R205, R224). The count of outstanding calls over `slots` and
`direct`, and the dropping of the burst's calls at the DirectExec itself, are the model's form, logs 1 and 16
(DESIGN CHOICE). -/
def Obligations.EachCommandUsesOneOutstandingCall : Prop :=
  ∀ (s t : State) (i : Instr), s.Legal → s.tickPhase = .burst → s.fetchInstr = .ok i → step s = .next t →
    (i.command = .endOfStream → t.tickPhase = .idle ∧ t.outstanding = 0) ∧
    (i.command ≠ .endOfStream → (t.tickPhase = .synth ↔ t.outstanding = 0) ∧
      (t.tickPhase = .burst ↔ t.outstanding ≠ 0)) ∧
    (i.command ≠ .endOfStream → i.command ≠ .directExec → t.outstanding + 1 = s.outstanding) ∧
    ∀ ch b, i = .directExec ch b →
      t.slots = 0 ∧ t.outstanding = (s.direct.sum - 1) + b.toNat

/-- One `SampleTick()`, written as the spec writes it, is a run of steps: whenever the recursive form completes,
from a machine between ticks with nothing else arriving, the steps reach the same outcome, and every state
in between is inside the tick (43_mixer.md R170, 44_tracker.md R200, R201, R224). The cut into steps is log 1 and
the tick that an empty inbox gives is log 15 (both DESIGN CHOICE). -/
def Obligations.SampleTickIsARunOfSteps : Prop :=
  ∀ (fuel : Nat) (s : State) (o : Host.Outcome State Fault Refusal),
    s.tickPhase = .idle → s.slots = 0 → s.direct = [] → s.inbox = [] →
    sampleTick fuel s = some o →
    ∃ k, Host.Core.run Sys2Proof.core (k + 1) s = o ∧
      ∀ j, 1 ≤ j → j ≤ k →
        ∃ u : State, Host.Core.run Sys2Proof.core j s = .next u ∧ u.tickPhase ≠ .idle

/-- A tick that never ends shows as an endless run: if no fuel completes the recursive form, then every number of
steps leads to a state in the burst, with no sample emitted (44_tracker.md R226,
70_reset_and_hazards.md R283). The endless run is the model's choice among the treatments of
93_implementation_defined.md U9, log 16, and the tick comes from an empty inbox, log 15 (both DESIGN
CHOICE). -/
def Obligations.EndlessTickStaysInTheBurst : Prop :=
  ∀ s : State, s.tickPhase = .idle → s.slots = 0 → s.direct = [] → s.inbox = [] →
    (∀ fuel, sampleTick fuel s = none) →
    ∀ k, ∃ t : State, Host.Core.run Sys2Proof.core (k + 1) s = .next t ∧ t.tickPhase = .burst ∧
      t.outputs = s.outputs

/-! ### Synthesis -/

/-- With defined waveform codes, `Synth` completes: it emits exactly one sample and ends the tick; each voice's
phase advances by its tuning word and its envelope is sampled once; the noise generator steps once for every
Noise voice; everything else stays (43_mixer.md R171, R175, 41_oscillator.md R117, R120, R124). -/
def Obligations.SynthAdvancesEveryVoiceAndEmitsOnce : Prop :=
  ∀ s : State, s.tickPhase = .synth → s.params.waveMap.Injective → s.WaveformsDefined →
    ∃ t b, step s = .next t ∧
      t = { s with voices := t.voices, noise := t.noise, tickPhase := .idle,
                   outputs := .sample b :: s.outputs } ∧
      t.noise = noiseBefore s s.numVoices ∧
      ∀ c : Nat, t.voices[c]? = (s.voices[c]?).map fun v : Voice =>
        ({ v with phase := v.phase + v.tuningWord, env := (envSample s.presets v.env).2 } : Voice)

/-- The emitted sample is the clamped, remapped sum over the voices, taken in index order, of the sample scaled by
envelope and volume less 127, scaled by the global volume (43_mixer.md R171 to R174). The default REMAP is the
floor formula, the spec's own decision D19, log 9. What a voice's sample is, OscSampleGivesEachWaveform says. -/
def Obligations.EmittedSampleIsTheScaledSumOverVoices : Prop :=
  ∀ s : State, s.tickPhase = .synth → s.params.waveMap.Injective → s.WaveformsDefined →
    ∃ t m, step s = .next t ∧ m = s.params.remap.apply s.numVoices (accumulator s) ∧
      (s.params.remap = .floor →
        m = ((accumulator s + 127 * s.numVoices) * 255) / (254 * s.numVoices)) ∧
      t.outputs = .sample (scale s.params.scaleMode (clampByte m) s.globalVolume) :: s.outputs ∧
      -(127 * (s.numVoices : Int)) ≤ accumulator s ∧ accumulator s ≤ 128 * s.numVoices

/-- The default remap sends the accumulator's range to 0..256, the named end points to 0 and 255, 0 to the centre
127, and the clamp acts on one value only: 256, reached at `128 * N` alone (43_mixer.md R172, R173). The floor
formula is the spec's own decision D19, log 9 (DEDUCED). -/
def Obligations.ClampActsOnlyAtTheTopOfTheRange : Prop :=
  ∀ (n : Nat) (acc : Int), 1 ≤ n → n ≤ 16 → -(127 * (n : Int)) ≤ acc → acc ≤ 128 * n →
    0 ≤ Remap.floor.apply n acc ∧ Remap.floor.apply n acc ≤ 256 ∧
    (Remap.floor.apply n acc = 256 ↔ acc = 128 * n) ∧
    Remap.floor.apply n (-(127 * (n : Int))) = 0 ∧ Remap.floor.apply n (127 * n) = 255 ∧ Remap.floor.apply n 0 = 127 ∧
    ((clampByte (Remap.floor.apply n acc)).toNat : Int) = min 255 (Remap.floor.apply n acc)

/-- `Scale` in the plain mode: 0 exactly when an input is 0, else `((v * s) >> 8) + 1`; symmetric; 255 is
neutral and 1 gives 1 for every nonzero input (43_mixer.md R160). -/
def Obligations.PlainScaleIsTheFixedPointProduct : Prop :=
  ∀ v s : Byte,
    (scale .plain v s = 0#8 ↔ v = 0#8 ∨ s = 0#8) ∧
    (v ≠ 0#8 → s ≠ 0#8 → (scale .plain v s).toNat = v.toNat * s.toNat / 256 + 1) ∧
    scale .plain v s = scale .plain s v ∧ scale .plain v 255#8 = v ∧
    (v ≠ 0#8 → scale .plain v 1#8 = 1#8)

/-- What holds of `Scale` in both modes: 0 exactly when an input is 0, and full scale passes through within 1, in
the plain mode exactly (43_mixer.md R162). -/
def Obligations.ScaleInBothModes : Prop :=
  (∀ (mode : ScaleMode) (v s : Byte),
    (scale mode v s = 0#8 ↔ v = 0#8 ∨ s = 0#8) ∧ 254 ≤ (scale mode 255#8 255#8).toNat) ∧
  scale .plain 255#8 255#8 = 255#8

/-- With global volume 0, and under the default REMAP with every volume 0 whatever the global volume, the sample of
a tick is 0 (43_mixer.md R174, R176, 70_reset_and_hazards.md R286). -/
def Obligations.ZeroVolumesEmitZero : Prop :=
  ∀ s : State, s.tickPhase = .synth → s.params.waveMap.Injective → s.WaveformsDefined →
    (s.globalVolume = 0#8 ∨ s.params.remap = .floor ∧ ∀ v ∈ s.voices, v.volume = 0#8) →
    ∃ t, step s = .next t ∧ t.outputs = .sample 0#8 :: s.outputs

/-! ### The oscillator -/

/-- The triangle touches 0 only at phase 64 and 255 only at phase 192, moves by 2 inside each segment and has the
three segments' end points of the rule (41_oscillator.md R113). -/
def Obligations.TriangleTouchesItsApexesOnce : Prop :=
  (∀ p : Byte, (triangle p = 0#8 ↔ p = 64#8) ∧ (triangle p = 255#8 ↔ p = 192#8)) ∧
  (triangle 0#8 = 127#8 ∧ triangle 63#8 = 1#8 ∧ triangle 191#8 = 254#8 ∧ triangle 255#8 = 129#8) ∧
  ∀ p : Byte, p ≠ 255#8 → p ≠ 63#8 → p ≠ 191#8 →
    (triangle (p + 1#8)).toNat + 2 = (triangle p).toNat ∨
    (triangle (p + 1#8)).toNat = (triangle p).toNat + 2

/-- The phase returns after exactly the multiples of `256 / gcd(tuning word, 256)` advances (41_oscillator.md
R122). -/
def Obligations.PhasePeriodIs256OverGcd : Prop :=
  ∀ (v : Voice) (k : Nat),
    (oscAdvance^[k] v).phase = v.phase ↔ 256 / Nat.gcd v.tuningWord.toNat 256 ∣ k

/-- A step of the noise generator exclusive-ors in the copies shifted by 13 left, 17 right and 5 left, in this order,
left shifts modulo 2^32, and its sample is the state's low byte (41_oscillator.md R116). So 0 is the only state that
leads to 0: from a nonzero seed no step reaches it, and from 0 the samples are 0 for ever (R118). The exclusive-or
is from general knowledge by the spec's own mark, 93_implementation_defined.md G2, log 20 (PRESUMED). -/
def Obligations.NoiseStaysZeroOrNonzero : Prop :=
  ∀ (x : DWord) (n : Nat),
    (∀ a b, a = x.toNat ^^^ (x.toNat * 2 ^ 13 % 2 ^ 32) → b = a ^^^ (a / 2 ^ 17) →
      (noiseNext x).toNat = b ^^^ (b * 2 ^ 5 % 2 ^ 32)) ∧
    (noiseByte x).toNat = x.toNat % 256 ∧
    (noiseNext^[n] x = 0#32 ↔ x = 0#32) ∧ noiseByte (noiseNext^[n] 0#32) = 0#8

/-! ### The envelope -/

/-- The Attack of a preset lasts `255 * K` calls, `K = max(1, ceil(C / 1024))` for its compare value `C`: call `j`
returns `j div K` before the last, 255 at the last, which enters Decay (42_envelope.md R133, R140, R143). -/
def Obligations.AttackRisesOneStepEveryKCalls : Prop :=
  ∀ (presets : List Preset) (e : Envelope) (p : Preset) (K : Nat),
    e.type ≠ 0#5 → presets[e.type.toNat - 1]? = some p →
    K = envPeriod (envCompare p.attackTicks 255) →
    ∀ j, 1 ≤ j → j ≤ 255 * K →
      (envCall presets j (envReset presets e .attack)).toNat = (if j < 255 * K then j / K else 255) ∧
      (envRun presets j (envReset presets e .attack)).state =
        (if j < 255 * K then EnvState.attack else EnvState.decay)

/-- The Decay to a sustain level `S` lasts `(255 - S) * K` calls, one call for `S` = 255: call `j` returns
`255 - j div K`, the last one `S`, and enters Sustain (42_envelope.md R134, R140, R143). -/
def Obligations.DecayFallsOneStepEveryKCalls : Prop :=
  ∀ (presets : List Preset) (e : Envelope) (p : Preset) (K n : Nat),
    e.type ≠ 0#5 → presets[e.type.toNat - 1]? = some p →
    K = envPeriod (envCompare p.decayTicks (255 - p.sustainLevel.toNat)) →
    n = (if p.sustainLevel = 255#8 then 1 else (255 - p.sustainLevel.toNat) * K) →
    ∀ j, 1 ≤ j → j ≤ n →
      (envCall presets j (envReset presets e .decay)).toNat =
        (if j < n then 255 - j / K else p.sustainLevel.toNat) ∧
      (envRun presets j (envReset presets e .decay)).state =
        (if j < n then EnvState.decay else EnvState.sustain)

/-- The Release from a sustain level `S` lasts `S * K` calls, one call for `S` = 0: call `j` returns `S - j div K`,
the last one 0, and sets `ended`, which no earlier call does; the state stays Release and every later call
returns 0 (42_envelope.md R136, R141, R143). -/
def Obligations.ReleaseFallsToZeroAndEnds : Prop :=
  ∀ (presets : List Preset) (e : Envelope) (p : Preset) (K n : Nat),
    e.type ≠ 0#5 → e.ended = false → presets[e.type.toNat - 1]? = some p →
    K = envPeriod (envCompare p.releaseTicks p.sustainLevel.toNat) →
    n = (if p.sustainLevel = 0#8 then 1 else p.sustainLevel.toNat * K) →
    ∀ j, 1 ≤ j →
      (envCall presets j (envReset presets e .release)).toNat =
        (if j < n then p.sustainLevel.toNat - j / K else 0) ∧
      (envRun presets j (envReset presets e .release)).ended = decide (n ≤ j) ∧
      (envRun presets j (envReset presets e .release)).state = .release

/-- Sustain holds its value over any number of calls, whatever the preset table holds by then; a bypassed envelope
always returns 255 and an ended one 0, and neither changes (42_envelope.md R139, R142). -/
def Obligations.SustainBypassAndEndedHold : Prop :=
  ∀ (presets : List Preset) (e : Envelope) (j : Nat), 1 ≤ j →
    (e.type ≠ 0#5 → e.ended = false → e.state = .sustain →
      envCall presets j e = e.value ∧
      envRun presets j e = { e with timer := (envRun presets j e).timer }) ∧
    (e.type = 0#5 → envCall presets j e = 255#8 ∧ envRun presets j e = e) ∧
    (e.type ≠ 0#5 → e.ended = true → envCall presets j e = 0#8 ∧ envRun presets j e = e)

/-! ### Reset, the host port, the conversion -/

/-- A Reset event, whatever coincides with it, leaves every piece of state at the table's value over the run's
parameters and outputs nothing (10_state.md R33, 70_reset_and_hazards.md R270, 60_exceptions.md R249). The waveform
is None, whose code is 0 by the default WAVE_MAP and the map's own under another, log 9 (DEDUCED). -/
def Obligations.ResetEventLeavesTheResetTable : Prop :=
  ∀ (s : State) (event : Option Event) (rest : List Moment), s.tickPhase = .idle →
    s.inbox = { reset := true, event := event } :: rest →
    step s = .next { s with
      voices := List.replicate s.numVoices
        { waveform := s.params.waveMap.none, duty := 127#8, tuningWord := 0#8, phase := 0#8, volume := 0#8,
          env := { type := 0#5, state := .attack, ended := true, value := 0#8,
                   timer := { compare := 0#32, counter := 0#32 } } }
      globalVolume := 0#8
      tempo := { compare := s.params.tempoDefaultCompare, counter := 0#32 }
      cursor := 0#16
      halted := false
      noise := s.params.noiseSeed
      presets := s.params.presetInit
      slots := 0
      direct := []
      inbox := rest }

/-- A host operation between ticks has the effect of the command that calls the same operation, but for the
cursor; SetADSRValues is EnvConfigure of the preset that its voice selects (60_exceptions.md R248). EnvConfigure of
any index from 1 to P rewrites that preset and no other, whether or not a voice selects it, and of 0 or above P
nothing (42_envelope.md R144); an operation that names a voice at or above N, 16 and more included, changes nothing
(43_mixer.md R185). The list of what arrives is the model's, log 15 (DESIGN CHOICE). -/
def Obligations.HostOperationsActAsTheCommands : Prop :=
  (∀ (i : Instr) (op : HostOp) (s : State) (rest : List Moment),
    hostOpOf i = some op → s.tickPhase = .idle →
    s.inbox = { reset := false, event := some (.hostOp op) } :: rest →
    ∃ t, exec i s = .next t ∧ step s = .next { t with cursor := s.cursor, inbox := rest }) ∧
  (∀ (ch : Nibble) (a d : Word) (l : Byte) (r : Word) (v : Voice) (s : State) (rest : List Moment),
    s.voices[ch.toNat]? = some v → s.tickPhase = .idle →
    s.inbox = { reset := false,
                event := some (.hostOp (.envConfigure (v.env.type.setWidth 8) a d l r)) } :: rest →
    ∃ t, exec (.setADSRValues ch a d l r) s = .next t ∧
      step s = .next { t with cursor := s.cursor, inbox := rest }) ∧
  (∀ (k : Byte) (a d : Word) (l : Byte) (r : Word) (s : State) (rest : List Moment),
    s.tickPhase = .idle →
    s.inbox = { reset := false, event := some (.hostOp (.envConfigure k a d l r)) } :: rest →
    ∃ t, step s = .next t ∧ t = { s with presets := t.presets, inbox := rest } ∧
      (k = 0#8 ∨ s.numPresets < k.toNat → t.presets = s.presets) ∧
      (1 ≤ k.toNat → k.toNat ≤ s.numPresets → t.presets[k.toNat - 1]? = some
        { attackTicks := msToTicks s.params.sampleRate a,
          decayTicks := msToTicks s.params.sampleRate d,
          sustainLevel := l,
          releaseTicks := msToTicks s.params.sampleRate r }) ∧
      ∀ j : Nat, j + 1 ≠ k.toNat → t.presets[j]? = s.presets[j]?) ∧
  ∀ (op : HostOp) (s : State) (rest : List Moment), s.tickPhase = .idle →
    s.inbox = { reset := false, event := some (.hostOp op) } :: rest →
    (∃ c ∈ op.voices, s.numVoices ≤ c) → step s = .next { s with inbox := rest }

/-- The millisecond conversion is `SAMPLE_RATE div (1000 div ms) - 1` wherever that formula has a value of 16 bits,
which for a sample rate of 1000 to 65536 is everywhere from 1 to 1000 ms (42_envelope.md R145, R146). -/
def Obligations.MsToTicksFollowsItsFormula : Prop :=
  ∀ (rate : Nat) (ms : Word), 1 ≤ ms.toNat → ms.toNat ≤ 1000 →
    (1 ≤ rate / (1000 / ms.toNat) → rate / (1000 / ms.toNat) ≤ 65536 →
      (msToTicks rate ms).toNat = rate / (1000 / ms.toNat) - 1) ∧
    (1000 ≤ rate → rate ≤ 65536 →
      1 ≤ rate / (1000 / ms.toNat) ∧ rate / (1000 / ms.toNat) ≤ rate)

/-! ### The waveforms and the command numbering -/

/-- The sample of each waveform, with the noise state after it, for a legal WAVE_MAP: None 127, Sine the table's
entry at the phase, Triangle its three segments, Square 255 while the phase is at most the duty, Sawtooth the phase
plus 127 modulo 256, Noise the low byte of the generator's state after its step, DC the duty; only Noise changes the
noise state; any other code has no sample (41_oscillator.md R110 to R116, R121, R119). The default codes are 0
to 6 in this order (30_encoding.md R88, the spec's own decision D4, log 9). -/
def Obligations.OscSampleGivesEachWaveform : Prop :=
  WaveMap.enumerationOrder.codes = [0#8, 1#8, 2#8, 3#8, 4#8, 5#8, 6#8] ∧
  ∀ (p : Params) (x : DWord) (v : Voice), p.waveMap.Injective →
    (v.waveform = p.waveMap.none → oscSample p x v = some (127#8, x)) ∧
    (v.waveform = p.waveMap.sine →
      ∃ o, oscSample p x v = some (o, x) ∧ p.sineTable.toList[v.phase.toNat]? = some o) ∧
    (v.waveform = p.waveMap.triangle →
      ∃ o, oscSample p x v = some (o, x) ∧
        o.toNat = if v.phase.toNat < 64 then 127 - 2 * v.phase.toNat
          else if v.phase.toNat < 192 then 2 * (v.phase.toNat - 64)
          else 255 - 2 * (v.phase.toNat - 192)) ∧
    (v.waveform = p.waveMap.square →
      oscSample p x v = some (if v.phase.toNat ≤ v.duty.toNat then 255#8 else 0#8, x)) ∧
    (v.waveform = p.waveMap.sawtooth →
      ∃ o, oscSample p x v = some (o, x) ∧ o.toNat = (v.phase.toNat + 127) % 256) ∧
    (v.waveform = p.waveMap.noise →
      ∃ o, oscSample p x v = some (o, noiseNext x) ∧ o.toNat = (noiseNext x).toNat % 256) ∧
    (v.waveform = p.waveMap.dc → oscSample p x v = some (v.duty, x)) ∧
    (v.waveform ∉ p.waveMap.codes → oscSample p x v = none)

/-- OPCODE_MAP numbers the commands and does nothing else: under another map every command has the same meaning,
and every step does the same, where it is a command that both maps fetch in a burst (30_encoding.md R83,
10_state.md R39). -/
def Obligations.AnotherOpcodeMapKeepsEveryMeaning : Prop :=
  (∀ (i : Instr) (s t : State) (m : OpcodeMap), exec i s = .next t →
    exec i (s.withOpcodeMap m) = .next (t.withOpcodeMap m)) ∧
  ∀ (s t : State) (m : OpcodeMap),
    (s.tickPhase = .burst → (s.withOpcodeMap m).fetchInstr = s.fetchInstr) → step s = .next t →
    step (s.withOpcodeMap m) = .next (t.withOpcodeMap m)
end

