-- ==== Sys2Proof/Laws/Envelope.lean ====
section
/-! SUPPORT. What a timer call and an envelope reset can do, said once. -/

namespace Sys2Proof.Machine

/-- A timer call fires and clears the counter, or counts (40_subtimer.md R101). -/
theorem SubTimer.tickInc_cases (t : SubTimer) (step : DWord) :
    (t.compare.toNat ≤ (t.counter + step).toNat ∧
      t.tickInc step = (true, { compare := t.compare, counter := 0#32 })) ∨
    ((t.counter + step).toNat < t.compare.toNat ∧
      t.tickInc step = (false, { compare := t.compare, counter := t.counter + step })) := by
  unfold SubTimer.tickInc timerFires
  by_cases h : t.compare.toNat ≤ (t.counter + step).toNat
  · exact .inl ⟨h, by simp only [h, decide_true, if_true]⟩
  · exact .inr ⟨Nat.lt_of_not_le h, by simp only [h, decide_false, Bool.false_eq_true, if_false]⟩

@[simp] theorem SubTimer.tickInc_compare (t : SubTimer) (step : DWord) :
    (t.tickInc step).2.compare = t.compare := by
  obtain ⟨-, h⟩ | ⟨-, h⟩ := t.tickInc_cases step <;> rw [h]

@[simp] theorem SubTimer.setCompare_compare (t : SubTimer) (v : DWord) :
    (t.setCompare v).compare = v := rfl

@[simp] theorem SubTimer.setCompare_counter (t : SubTimer) (v : DWord) :
    (t.setCompare v).counter = 0#32 := rfl

/-- An envelope reset is the no-op of Release on an ended envelope, or the entry to the target
(42_envelope.md R131). -/
theorem envReset_cases (presets : List Preset) (e : Envelope) (target : EnvState) :
    (target = .release ∧ e.ended = true ∧ envReset presets e target = e) ∨
    (¬(target = .release ∧ e.ended = true) ∧ envReset presets e target =
      { e with
        value := (envEntry (envPreset presets e.type) target).1
        timer := ⟨(envEntry (envPreset presets e.type) target).2, 0#32⟩
        state := target
        ended := false }) := by
  unfold envReset
  split
  · exact .inl ⟨(‹_ ∧ _›).1, (‹_ ∧ _›).2, rfl⟩
  · exact .inr ⟨‹_›, rfl⟩

@[simp] theorem envReset_type (presets : List Preset) (e : Envelope) (target : EnvState) :
    (envReset presets e target).type = e.type := by
  obtain ⟨-, -, h⟩ | ⟨-, h⟩ := envReset_cases presets e target <;> rw [h]

@[simp] theorem envFire_type (presets : List Preset) (e : Envelope) :
    (envFire presets e).type = e.type := by
  unfold envFire; split <;> (try split) <;> simp

@[simp] theorem envSample_type (presets : List Preset) (e : Envelope) :
    (envSample presets e).2.type = e.type := by
  unfold envSample
  split
  · rfl
  · split
    · rfl
    · dsimp only; split <;> simp

/-- The preset of a type in the table (42_envelope.md R130). -/
theorem envPreset_eq {presets : List Preset} {type : BitVec 5} {p : Preset} (h : type ≠ 0#5)
    (hp : presets[type.toNat - 1]? = some p) : envPreset presets type = p := by
  have h0 : type.toNat ≠ 0 := fun h' => h (BitVec.eq_of_toNat_eq h')
  simp [envPreset, h0, hp]

/-- `EnvCompare` is the least integer at or above `T * 1024 / steps` and fits 2^31 (42_envelope.md R132). -/
theorem envCompare_toNat (ticks : Word) (steps : Nat) :
    (envCompare ticks steps).toNat =
      if steps = 0 then 0 else (ticks.toNat * 1024 + steps - 1) / steps := by
  unfold envCompare
  split
  · rfl
  · rename_i h
    have hpos : 0 < steps := Nat.pos_of_ne_zero h
    have hle : (ticks.toNat * 1024 + steps - 1) / steps ≤ ticks.toNat * 1024 := by
      rw [Nat.div_le_iff_le_mul_add_pred hpos]
      have : ticks.toNat * 1024 ≤ steps * (ticks.toNat * 1024) := Nat.le_mul_of_pos_left _ hpos
      omega
    have := ticks.isLt
    rw [BitVec.toNat_ofNat]
    exact Nat.mod_eq_of_lt (by omega)

/-- Every compare value an envelope entry arms is at most 2^31 (42_envelope.md R132, R135). -/
theorem envEntry_compare_le (p : Preset) (target : EnvState) :
    (envEntry p target).2.toNat ≤ 2 ^ 31 := by
  have key : ∀ (ticks : Word) (steps : Nat), (envCompare ticks steps).toNat ≤ 2 ^ 31 := by
    intro ticks steps
    rw [envCompare_toNat]
    split
    · omega
    · rename_i h
      have hpos : 0 < steps := Nat.pos_of_ne_zero h
      have hle : (ticks.toNat * 1024 + steps - 1) / steps ≤ ticks.toNat * 1024 := by
        rw [Nat.div_le_iff_le_mul_add_pred hpos]
        have : ticks.toNat * 1024 ≤ steps * (ticks.toNat * 1024) := Nat.le_mul_of_pos_left _ hpos
        omega
      have := ticks.isLt
      omega
  cases target
  · exact key _ _
  · exact key _ _
  · exact (by decide : sustainCompare.toNat ≤ 2 ^ 31)
  · exact key _ _

end Sys2Proof.Machine
end

