-- ==== Sys2Proof/Laws/Memory.lean ====
section
/-! SUPPORT. The laws of the stream's list form: what a read after a write gives, and that every memory
operation keeps the canonical form. -/

namespace Sys2Proof.Machine

theorem Memory.wfFrom_cons (lo k : Nat) (b : Byte) (m : Memory) :
    Memory.wfFrom lo ((k, b) :: m) = true ↔ lo ≤ k ∧ b ≠ 0#8 ∧ Memory.wfFrom (k + 1) m = true := by
  simp [Memory.wfFrom, and_assoc]

theorem Memory.wfFrom_le {lo lo' : Nat} (m : Memory) (h : lo' ≤ lo) (hw : Memory.wfFrom lo m = true) :
    Memory.wfFrom lo' m = true := by
  cases m with
  | nil => rfl
  | cons c m =>
    obtain ⟨k, b⟩ := c
    rw [Memory.wfFrom_cons] at hw ⊢
    exact ⟨by omega, hw.2⟩

/-- An address below the form's lower bound is unlisted. -/
theorem Memory.read_below {lo a : Nat} (m : Memory) (hw : Memory.wfFrom lo m = true) (h : a < lo) :
    Memory.read m a = 0#8 := by
  cases m with
  | nil => rfl
  | cons c m =>
    obtain ⟨k, b⟩ := c
    rw [Memory.wfFrom_cons] at hw
    have h1 : a ≠ k := by omega
    have h2 : a < k := by omega
    simp [Memory.read, h1, h2]

/-- A write keeps the canonical form above any bound it respects. -/
theorem Memory.wfFrom_write {lo a : Nat} (b : Byte) (m : Memory) (hw : Memory.wfFrom lo m = true)
    (h : lo ≤ a) : Memory.wfFrom lo (Memory.write m a b) = true := by
  induction m generalizing lo with
  | nil =>
    unfold Memory.write Memory.cell
    split
    · rfl
    · rw [Memory.wfFrom_cons]; exact ⟨h, ‹_›, rfl⟩
  | cons c m ih =>
    obtain ⟨k, d⟩ := c
    have hc := (Memory.wfFrom_cons lo k d m).mp hw
    unfold Memory.write Memory.cell
    split
    · subst a
      split
      · exact Memory.wfFrom_le m (by omega) hc.2.2
      · exact (Memory.wfFrom_cons ..).mpr ⟨h, ‹_›, hc.2.2⟩
    · split
      · split
        · exact hw
        · exact (Memory.wfFrom_cons ..).mpr ⟨h, ‹_›, (Memory.wfFrom_cons ..).mpr ⟨by omega, hc.2⟩⟩
      · exact (Memory.wfFrom_cons ..).mpr ⟨hc.1, hc.2.1, ih hc.2.2 (by omega)⟩

/-- A write keeps the canonical form. -/
theorem Memory.wf_write (m : Memory) (a : Nat) (b : Byte) (hw : m.wf = true) :
    (Memory.write m a b).wf = true :=
  Memory.wfFrom_write b m hw (Nat.zero_le a)

/-- Placing bytes keeps the canonical form. -/
theorem Memory.wf_writeBytes (bytes : List Byte) (m : Memory) (a : Word) (hw : m.wf = true) :
    (Memory.writeBytes m a bytes).wf = true := by
  induction bytes generalizing m a with
  | nil => exact hw
  | cons b rest ih => exact ih _ _ (Memory.wf_write m a.toNat b hw)

/-- A read of the address just written gives the byte written. -/
theorem Memory.read_write_same {lo a : Nat} (b : Byte) (m : Memory) (hw : Memory.wfFrom lo m = true) :
    Memory.read (Memory.write m a b) a = b := by
  induction m generalizing lo with
  | nil =>
    unfold Memory.write Memory.cell
    split <;> simp [Memory.read, *]
  | cons c m ih =>
    obtain ⟨k, d⟩ := c
    have hc := (Memory.wfFrom_cons lo k d m).mp hw
    unfold Memory.write Memory.cell
    split
    · subst a
      split
      · simpa [*] using Memory.read_below m hc.2.2 (Nat.lt_succ_self k)
      · simp [Memory.read]
    · split
      · split <;> simp [Memory.read, *]
      · simp [Memory.read, *, ih hc.2.2]

/-- A write leaves every other address alone. -/
theorem Memory.read_write_other {lo a a' : Nat} (b : Byte) (m : Memory)
    (hw : Memory.wfFrom lo m = true) (h : a' ≠ a) :
    Memory.read (Memory.write m a b) a' = Memory.read m a' := by
  induction m generalizing lo with
  | nil =>
    unfold Memory.write Memory.cell
    split <;> simp [Memory.read, h]
  | cons c m ih =>
    obtain ⟨k, d⟩ := c
    have hc := (Memory.wfFrom_cons lo k d m).mp hw
    unfold Memory.write Memory.cell
    split
    · subst a
      have below : a' < k → Memory.read m a' = 0#8 := fun hlt =>
        Memory.read_below m hc.2.2 (Nat.lt_succ_of_lt hlt)
      split
      · by_cases hlt : a' < k <;> simp [Memory.read, h, hlt, below]
      · by_cases hlt : a' < k <;> simp [Memory.read, h, hlt]
    · split
      · split
        · rfl
        · by_cases hlt : a' < a
          · have : a' ≠ k := by omega
            have : a' < k := by omega
            simp [Memory.read, *]
          · simp [Memory.read, h, hlt]
      · simp only [Memory.read, ih hc.2.2]

/-- The reset stream is canonical. -/
theorem State.reset_stream_wf : State.reset.stream.wf = true := rfl

/-- The prepared state's stream is canonical if the state's was. -/
theorem State.withFetchWord_stream_wf (s : State) (nbits w : Nat) (h : s.stream.wf = true) :
    (s.withFetchWord nbits w).stream.wf = true :=
  Memory.wf_writeBytes _ _ _ h

/-- A read gives a byte exactly below STREAM_LEN (20_memory.md R62, R68). -/
theorem State.memRead1_eq_some_iff (s : State) (a : Word) (b : Byte) :
    s.memRead1 a = some b ↔ a.toNat < s.streamLen ∧ s.stream.read a.toNat = b := by
  unfold State.memRead1; split <;> simp [*]

theorem State.memRead1_eq_none_iff (s : State) (a : Word) :
    s.memRead1 a = none ↔ s.streamLen ≤ a.toNat := by
  unfold State.memRead1; split <;> simp <;> omega

end Sys2Proof.Machine
end

