-- ==== Sys2Proof/Laws/Fetch.lean ====
section
/-! SUPPORT. What a fetch reads, said once: the window of readable bytes at the cursor, when it decodes, and what
placing bytes in the stream makes it read. -/

namespace Sys2Proof.Machine

/-- An address exists exactly below STREAM_LEN (20_memory.md R62, R68). -/
theorem State.memRead1_isSome (s : State) (a : Word) : (s.memRead1 a).isSome ↔ a.toNat < s.streamLen := by
  unfold State.memRead1; split <;> simp [*]

/-- Reads depend on the stream alone. -/
theorem State.memRead1_congr {s t : State} (h : t.stream = s.stream) (hl : t.streamLen = s.streamLen)
    (a : Word) : t.memRead1 a = s.memRead1 a := by
  simp [State.memRead1, h, hl]

/-- Byte `k` of the readable bytes from an address: the read there, if every byte up to it exists. -/
theorem State.bytesFrom_getElem? (s : State) (n : Nat) (a : Word) (k : Nat) :
    (s.bytesFrom n a)[k]? =
      if k < n ∧ ∀ j ≤ k, (s.memRead1 (a + BitVec.ofNat 16 j)).isSome then
        s.memRead1 (a + BitVec.ofNat 16 k)
      else none := by
  induction n generalizing a k with
  | zero => simp [State.bytesFrom]
  | succ n ih =>
    have shift : ∀ j : Nat, a + 1#16 + BitVec.ofNat 16 j = a + BitVec.ofNat 16 (j + 1) := by
      intro j; apply BitVec.eq_of_toNat_eq; simp; omega
    cases h : s.memRead1 a with
    | none =>
      simp only [State.bytesFrom, h]
      rw [if_neg]
      · simp
      · rintro ⟨-, h2⟩
        simpa [h] using h2 0 (Nat.zero_le _)
    | some b =>
      simp only [State.bytesFrom, h]
      cases k with
      | zero => simp [h]
      | succ k =>
        rw [List.getElem?_cons_succ, ih, shift]
        refine if_congr ⟨fun ⟨h1, h2⟩ => ⟨by omega, fun j hj => ?_⟩, fun ⟨h1, h2⟩ => ⟨by omega, fun j hj => ?_⟩⟩
          rfl rfl
        · cases j with
          | zero => simp [h]
          | succ j => rw [← shift]; exact h2 j (by omega)
        · rw [shift]; exact h2 _ (by omega)

/-- Byte `k` of the window at the cursor. -/
theorem State.window_getElem? (s : State) (k : Nat) :
    s.window[k]? =
      if k < 8 ∧ ∀ j ≤ k, (s.memRead1 (s.cursor + BitVec.ofNat 16 j)).isSome then
        s.memRead1 (s.cursor + BitVec.ofNat 16 k)
      else none :=
  s.bytesFrom_getElem? 8 s.cursor k

/-- A fetch gives a command exactly when the window decodes to it. -/
theorem State.fetchInstr_ok_iff (s : State) (i : Instr) :
    s.fetchInstr = .ok i ↔ ∃ rest, decode s.params.opcodeMap s.window = .ok (i, rest) := by
  unfold State.fetchInstr
  cases decode s.params.opcodeMap s.window with
  | error e => cases e; simp
  | ok r => obtain ⟨j, r⟩ := r; simp

/-- A fetch fails exactly when the window is cut short, at the first address past the window
(20_memory.md R68). -/
theorem State.fetchInstr_error_iff (s : State) (r : Fault) :
    s.fetchInstr = .error r ↔
      decode s.params.opcodeMap s.window = .error .truncated ∧
        r = .streamOverrun (s.cursor + BitVec.ofNat 16 s.window.length) := by
  unfold State.fetchInstr
  cases decode s.params.opcodeMap s.window with
  | error e => cases e; simp [eq_comm]
  | ok r => obtain ⟨j, r⟩ := r; simp

/-- A fetch depends on the cursor, the stream and OPCODE_MAP alone. -/
theorem State.fetchInstr_congr {s t : State} (hc : t.cursor = s.cursor) (h : t.stream = s.stream)
    (hl : t.streamLen = s.streamLen) (hp : t.params.opcodeMap = s.params.opcodeMap) : t.fetchInstr = s.fetchInstr := by
  have : ∀ n a, t.bytesFrom n a = s.bytesFrom n a := by
    intro n
    induction n with
    | zero => intro a; rfl
    | succ n ih => intro a; simp only [State.bytesFrom, State.memRead1_congr h hl, ih]
  simp only [State.fetchInstr, State.window, this, hc, hp]

/-- What a read gives after at most 8 bytes were placed from an address on. -/
theorem Memory.read_writeBytes (bytes : List Byte) (m : Memory) (a x : Word) (hw : m.wf = true)
    (hl : bytes.length ≤ 8) :
    Memory.read (Memory.writeBytes m a bytes) x.toNat =
      if h : (x - a).toNat < bytes.length then bytes[(x - a).toNat] else Memory.read m x.toNat := by
  induction bytes generalizing m a with
  | nil => simp [Memory.writeBytes]
  | cons b rest ih =>
    simp only [List.length_cons] at hl ⊢
    simp only [Memory.writeBytes]
    rw [ih _ _ (Memory.wf_write m a.toNat b hw) (by omega)]
    by_cases hxa : x = a
    · subst hxa
      have : (x - (x + 1#16)).toNat = 65535 := by simp
      rw [dif_neg (by omega), Memory.read_write_same b m hw]
      simp
    · have hne : x.toNat ≠ a.toNat := fun h => hxa (BitVec.eq_of_toNat_eq h)
      have e : (x - a).toNat = (x - (a + 1#16)).toNat + 1 := by
        simp [BitVec.toNat_sub, BitVec.toNat_add]; omega
      by_cases h1 : (x - (a + 1#16)).toNat < rest.length
      · rw [dif_pos h1, dif_pos (by omega)]; simp only [e]; rfl
      · rw [dif_neg h1, dif_neg (by omega)]; exact Memory.read_write_other b m hw hne

end Sys2Proof.Machine
end

