-- ==== Sys2Proof/Laws/Maps.lean ====
section
/-! SUPPORT. What the configuration maps can do, said once: a legal OPCODE_MAP and its numbering are inverse, a
legal WAVE_MAP reads back its codes, and the defaults are legal. -/

namespace Sys2Proof

theorem OpcodeMap.tableOrder_bijective : OpcodeMap.tableOrder.Bijective := by decide

theorem WaveMap.enumerationOrder_injective : WaveMap.enumerationOrder.Injective := by decide

/-- The number of the command of a number is that number (30_encoding.md R83). -/
theorem OpcodeMap.number_command (m : OpcodeMap) (h : m.Bijective) (n : Nibble) :
    m.number (m.command n) = n := by
  have hn : n.toNat < m.table.toList.length := by simpa using n.isLt
  have e : m.command n = m.table.toList[n.toNat] := by simp [OpcodeMap.command, Vector.get]
  have key : m.table.toList.idxOf m.table.toList[n.toNat] = n.toNat := h.idxOf_getElem _ hn
  rw [OpcodeMap.number, e, key]
  simp

/-- Every command has a number in a legal map (30_encoding.md R83). -/
theorem OpcodeMap.mem_table (m : OpcodeMap) (h : m.Bijective) (c : Command) : c ∈ m.table.toList := by
  have all : ∀ c : Command, c ∈ OpcodeMap.tableOrder.table.toList := by intro c; cases c <;> decide
  have perm := (List.subperm_of_subset h fun c _ => all c).perm_of_length_le (by simp)
  exact perm.mem_iff.mpr (all c)

/-- The command of the number of a command is that command (30_encoding.md R83). -/
theorem OpcodeMap.command_number (m : OpcodeMap) (h : m.Bijective) (c : Command) :
    m.command (m.number c) = c := by
  have hlt : m.table.toList.idxOf c < m.table.toList.length :=
    List.idxOf_lt_length_of_mem (m.mem_table h c)
  have hlt' : m.table.toList.idxOf c < 16 := by simpa using hlt
  have e : (m.number c).toNat = m.table.toList.idxOf c := by
    simp [OpcodeMap.number, Nat.mod_eq_of_lt hlt']
  have g : m.command (m.number c) = m.table.toList[(m.number c).toNat]'(by rw [e]; exact hlt) := by
    simp [OpcodeMap.command, Vector.get]
  rw [g]
  simp only [e]
  exact List.getElem_idxOf hlt

/-- A register value without a waveform is none of the seven codes (30_encoding.md R88). -/
theorem WaveMap.waveform_eq_none_iff (m : WaveMap) (b : Byte) : m.waveform b = Option.none ↔ b ∉ m.codes := by
  simp only [WaveMap.waveform, WaveMap.codes, List.find?_eq_none, List.mem_map, beq_iff_eq, not_exists,
    not_and]

theorem Waveform.mem_all (w : Waveform) : w ∈ Waveform.all := by cases w <;> decide

/-- In a legal map a register value names a waveform exactly when it is its code (30_encoding.md R88). -/
theorem WaveMap.waveform_eq_some_iff (m : WaveMap) (h : m.Injective) (b : Byte) (w : Waveform) :
    m.waveform b = some w ↔ b = m.code w := by
  constructor
  · intro hw
    have e := List.find?_some (p := fun w => m.code w == b) hw
    exact (eq_of_beq e).symm
  · rintro rfl
    cases hw : m.waveform (m.code w) with
    | none => exact absurd (List.mem_map_of_mem w.mem_all) ((m.waveform_eq_none_iff _).mp hw)
    | some w' =>
      have e : m.code w' = m.code w :=
        eq_of_beq (List.find?_some (p := fun u => m.code u == m.code w) hw)
      rw [List.inj_on_of_nodup_map h w'.mem_all w.mem_all e]

end Sys2Proof
end

