-- ==== Sys2Proof/Laws/Mixer.lean ====
section
/-! SUPPORT. When a voice has a sample and what one pass over the voices gives, said once. -/

namespace Sys2Proof.Machine

/-- A voice has no sample exactly when its waveform code is reserved (41_oscillator.md R119). -/
theorem oscSample_eq_none_iff (p : Params) (noise : DWord) (v : Voice) :
    oscSample p noise v = none ↔ v.waveform ∉ p.waveMap.codes := by
  rw [← p.waveMap.waveform_eq_none_iff]
  unfold oscSample
  cases p.waveMap.waveform v.waveform with
  | none => simp
  | some w => cases w <;> simp

/-- A voice whose waveform code is some waveform's has the sample of that waveform. -/
theorem oscSample_of_waveform {p : Params} {v : Voice} (h : p.waveMap.Injective) (noise : DWord)
    (w : Waveform) (hw : v.waveform = p.waveMap.code w) :
    oscSample p noise v = some (match w with
      | .none => (127#8, noise)
      | .sine => (p.sineTable.get v.phase.toFin, noise)
      | .triangle => (triangle v.phase, noise)
      | .square => (square v.phase v.duty, noise)
      | .sawtooth => (sawtooth v.phase, noise)
      | .noise => (noiseByte (noiseNext noise), noiseNext noise)
      | .dc => (v.duty, noise)) := by
  unfold oscSample
  rw [(p.waveMap.waveform_eq_some_iff h _ w).mpr hw]
  cases w <;> rfl

/-- A defined code gives a sample, and the generator steps for Noise only (41_oscillator.md R116). -/
theorem oscSample_defined {p : Params} {v : Voice} (h : p.waveMap.Injective) (noise : DWord)
    (hv : v.waveform ∈ p.waveMap.codes) :
    ∃ o, oscSample p noise v =
      some (o, if v.waveform = p.waveMap.noise then noiseNext noise else noise) := by
  obtain ⟨w, -, hw⟩ := List.mem_map.mp hv
  have hn : v.waveform = p.waveMap.noise ↔ w = .noise := by
    rw [← hw]
    exact ⟨fun e => List.inj_on_of_nodup_map h w.mem_all Waveform.noise.mem_all e, fun e => by rw [e]; rfl⟩
  rw [oscSample_of_waveform h noise w hw.symm]
  simp only [hn]
  cases w <;> simp

/-- One pass over a list of voices with a sampled first voice. -/
theorem synthVoices_cons (p : Params) (presets : List Preset) (noise : DWord) (v : Voice)
    (rest : List Voice) {o : Byte} {noise' : DWord} (ho : oscSample p noise v = some (o, noise')) :
    synthVoices p presets noise (v :: rest) =
      match synthVoices p presets noise' rest with
      | .error r => .error r
      | .ok (acc, rest', noise'') =>
        .ok ((((scaledSample p.scaleMode o (envSample presets v.env).1 v.volume).toNat : Int) - 127) + acc,
          { v with phase := v.phase + v.tuningWord, env := (envSample presets v.env).2 } :: rest',
          noise'') := by
  rw [synthVoices, synthVoice, ho]
  rfl

end Sys2Proof.Machine
end

