-- ==== Sys2Proof/Laws/PerInstr.lean ====
section
/-! SUPPORT. Statements about every command as syntax, one lemma per constructor. -/

namespace Sys2Proof.Laws.EncodedLength

/-- The encoding of a command has the length of its format, under every OPCODE_MAP (30_encoding.md R80,
R93). -/
def Statement (i : Instr) : Prop := ∀ m : OpcodeMap, (encode m i).length = i.length

theorem noAction (ch : Nibble) : Statement (.noAction ch) := fun _ => rfl
theorem setTempo (ch : Nibble) (w : Word) : Statement (.setTempo ch w) := fun _ => rfl
theorem setWave (ch : Nibble) (b : Byte) : Statement (.setWave ch b) := fun _ => rfl
theorem setVolume (ch : Nibble) (b : Byte) : Statement (.setVolume ch b) := fun _ => rfl
theorem setGlobalVolume (ch : Nibble) (b : Byte) : Statement (.setGlobalVolume ch b) := fun _ => rfl
theorem noteOn (ch : Nibble) (b : Byte) : Statement (.noteOn ch b) := fun _ => rfl
theorem noteOff (ch : Nibble) : Statement (.noteOff ch) := fun _ => rfl
theorem endOfStream (ch : Nibble) : Statement (.endOfStream ch) := fun _ => rfl
theorem softwareReset (ch : Nibble) : Statement (.softwareReset ch) := fun _ => rfl
theorem syncOscillator (ch : Nibble) (b : Byte) : Statement (.syncOscillator ch b) := fun _ => rfl
theorem resetOscillator (ch : Nibble) : Statement (.resetOscillator ch) := fun _ => rfl
theorem setADSR (ch : Nibble) (b : Byte) : Statement (.setADSR ch b) := fun _ => rfl
theorem jumpInFile (ch : Nibble) (w : Word) : Statement (.jumpInFile ch w) := fun _ => rfl
theorem setDuty (ch : Nibble) (b : Byte) : Statement (.setDuty ch b) := fun _ => rfl
theorem directExec (ch : Nibble) (b : Byte) : Statement (.directExec ch b) := fun _ => rfl
theorem setADSRValues (ch : Nibble) (attack decay : Word) (s : Byte) (release : Word) :
    Statement (.setADSRValues ch attack decay s release) := fun _ => rfl

end Sys2Proof.Laws.EncodedLength
end

