-- ==== Sys2Proof/Laws/State.lean ====
section
/-! SUPPORT. One lemma per field per update of the state, so that no later proof unfolds a record update. -/

namespace Sys2Proof.Machine

/-! ### advance -/

@[simp] theorem State.advance_voices (s : State) (n : Nat) :
    (s.advance n).voices = s.voices := rfl

@[simp] theorem State.advance_globalVolume (s : State) (n : Nat) :
    (s.advance n).globalVolume = s.globalVolume := rfl

@[simp] theorem State.advance_tempo (s : State) (n : Nat) :
    (s.advance n).tempo = s.tempo := rfl

@[simp] theorem State.advance_halted (s : State) (n : Nat) :
    (s.advance n).halted = s.halted := rfl

@[simp] theorem State.advance_noise (s : State) (n : Nat) :
    (s.advance n).noise = s.noise := rfl

@[simp] theorem State.advance_presets (s : State) (n : Nat) :
    (s.advance n).presets = s.presets := rfl

@[simp] theorem State.advance_tickPhase (s : State) (n : Nat) :
    (s.advance n).tickPhase = s.tickPhase := rfl

@[simp] theorem State.advance_slots (s : State) (n : Nat) :
    (s.advance n).slots = s.slots := rfl

@[simp] theorem State.advance_direct (s : State) (n : Nat) :
    (s.advance n).direct = s.direct := rfl

@[simp] theorem State.advance_params (s : State) (n : Nat) :
    (s.advance n).params = s.params := rfl

@[simp] theorem State.advance_stream (s : State) (n : Nat) :
    (s.advance n).stream = s.stream := rfl

@[simp] theorem State.advance_streamLen (s : State) (n : Nat) :
    (s.advance n).streamLen = s.streamLen := rfl

@[simp] theorem State.advance_inbox (s : State) (n : Nat) :
    (s.advance n).inbox = s.inbox := rfl

@[simp] theorem State.advance_outputs (s : State) (n : Nat) :
    (s.advance n).outputs = s.outputs := rfl

@[simp] theorem State.advance_cursor (s : State) (n : Nat) :
    (s.advance n).cursor = s.cursor + BitVec.ofNat 16 n := rfl

/-! ### updateVoice -/

@[simp] theorem State.updateVoice_globalVolume (s : State) (c : Nat) (f : Voice → Voice) :
    (s.updateVoice c f).globalVolume = s.globalVolume := by
  unfold State.updateVoice; split <;> rfl

@[simp] theorem State.updateVoice_tempo (s : State) (c : Nat) (f : Voice → Voice) :
    (s.updateVoice c f).tempo = s.tempo := by
  unfold State.updateVoice; split <;> rfl

@[simp] theorem State.updateVoice_cursor (s : State) (c : Nat) (f : Voice → Voice) :
    (s.updateVoice c f).cursor = s.cursor := by
  unfold State.updateVoice; split <;> rfl

@[simp] theorem State.updateVoice_halted (s : State) (c : Nat) (f : Voice → Voice) :
    (s.updateVoice c f).halted = s.halted := by
  unfold State.updateVoice; split <;> rfl

@[simp] theorem State.updateVoice_noise (s : State) (c : Nat) (f : Voice → Voice) :
    (s.updateVoice c f).noise = s.noise := by
  unfold State.updateVoice; split <;> rfl

@[simp] theorem State.updateVoice_presets (s : State) (c : Nat) (f : Voice → Voice) :
    (s.updateVoice c f).presets = s.presets := by
  unfold State.updateVoice; split <;> rfl

@[simp] theorem State.updateVoice_tickPhase (s : State) (c : Nat) (f : Voice → Voice) :
    (s.updateVoice c f).tickPhase = s.tickPhase := by
  unfold State.updateVoice; split <;> rfl

@[simp] theorem State.updateVoice_slots (s : State) (c : Nat) (f : Voice → Voice) :
    (s.updateVoice c f).slots = s.slots := by
  unfold State.updateVoice; split <;> rfl

@[simp] theorem State.updateVoice_direct (s : State) (c : Nat) (f : Voice → Voice) :
    (s.updateVoice c f).direct = s.direct := by
  unfold State.updateVoice; split <;> rfl

@[simp] theorem State.updateVoice_params (s : State) (c : Nat) (f : Voice → Voice) :
    (s.updateVoice c f).params = s.params := by
  unfold State.updateVoice; split <;> rfl

@[simp] theorem State.updateVoice_stream (s : State) (c : Nat) (f : Voice → Voice) :
    (s.updateVoice c f).stream = s.stream := by
  unfold State.updateVoice; split <;> rfl

@[simp] theorem State.updateVoice_streamLen (s : State) (c : Nat) (f : Voice → Voice) :
    (s.updateVoice c f).streamLen = s.streamLen := by
  unfold State.updateVoice; split <;> rfl

@[simp] theorem State.updateVoice_inbox (s : State) (c : Nat) (f : Voice → Voice) :
    (s.updateVoice c f).inbox = s.inbox := by
  unfold State.updateVoice; split <;> rfl

@[simp] theorem State.updateVoice_outputs (s : State) (c : Nat) (f : Voice → Voice) :
    (s.updateVoice c f).outputs = s.outputs := by
  unfold State.updateVoice; split <;> rfl

/-! ### emit -/

@[simp] theorem State.emit_voices (s : State) (b : Byte) :
    (s.emit b).voices = s.voices := rfl

@[simp] theorem State.emit_globalVolume (s : State) (b : Byte) :
    (s.emit b).globalVolume = s.globalVolume := rfl

@[simp] theorem State.emit_tempo (s : State) (b : Byte) :
    (s.emit b).tempo = s.tempo := rfl

@[simp] theorem State.emit_cursor (s : State) (b : Byte) :
    (s.emit b).cursor = s.cursor := rfl

@[simp] theorem State.emit_halted (s : State) (b : Byte) :
    (s.emit b).halted = s.halted := rfl

@[simp] theorem State.emit_noise (s : State) (b : Byte) :
    (s.emit b).noise = s.noise := rfl

@[simp] theorem State.emit_presets (s : State) (b : Byte) :
    (s.emit b).presets = s.presets := rfl

@[simp] theorem State.emit_tickPhase (s : State) (b : Byte) :
    (s.emit b).tickPhase = s.tickPhase := rfl

@[simp] theorem State.emit_slots (s : State) (b : Byte) :
    (s.emit b).slots = s.slots := rfl

@[simp] theorem State.emit_direct (s : State) (b : Byte) :
    (s.emit b).direct = s.direct := rfl

@[simp] theorem State.emit_params (s : State) (b : Byte) :
    (s.emit b).params = s.params := rfl

@[simp] theorem State.emit_stream (s : State) (b : Byte) :
    (s.emit b).stream = s.stream := rfl

@[simp] theorem State.emit_streamLen (s : State) (b : Byte) :
    (s.emit b).streamLen = s.streamLen := rfl

@[simp] theorem State.emit_inbox (s : State) (b : Byte) :
    (s.emit b).inbox = s.inbox := rfl

@[simp] theorem State.emit_outputs (s : State) (b : Byte) :
    (s.emit b).outputs = .sample b :: s.outputs := rfl

/-! ### halt -/

@[simp] theorem State.halt_voices (s : State) :
    (s.halt).voices = s.voices := rfl

@[simp] theorem State.halt_globalVolume (s : State) :
    (s.halt).globalVolume = s.globalVolume := rfl

@[simp] theorem State.halt_tempo (s : State) :
    (s.halt).tempo = s.tempo := rfl

@[simp] theorem State.halt_cursor (s : State) :
    (s.halt).cursor = s.cursor := rfl

@[simp] theorem State.halt_noise (s : State) :
    (s.halt).noise = s.noise := rfl

@[simp] theorem State.halt_presets (s : State) :
    (s.halt).presets = s.presets := rfl

@[simp] theorem State.halt_tickPhase (s : State) :
    (s.halt).tickPhase = s.tickPhase := rfl

@[simp] theorem State.halt_slots (s : State) :
    (s.halt).slots = s.slots := rfl

@[simp] theorem State.halt_direct (s : State) :
    (s.halt).direct = s.direct := rfl

@[simp] theorem State.halt_params (s : State) :
    (s.halt).params = s.params := rfl

@[simp] theorem State.halt_stream (s : State) :
    (s.halt).stream = s.stream := rfl

@[simp] theorem State.halt_streamLen (s : State) :
    (s.halt).streamLen = s.streamLen := rfl

@[simp] theorem State.halt_inbox (s : State) :
    (s.halt).inbox = s.inbox := rfl

@[simp] theorem State.halt_outputs (s : State) : s.halt.outputs = .streamEnd :: s.outputs := rfl

@[simp] theorem State.halt_halted (s : State) : s.halt.halted = true := rfl

/-! ### takeCall -/

@[simp] theorem State.takeCall_voices (s : State) :
    (s.takeCall).voices = s.voices := by
  unfold State.takeCall; split <;> rfl

@[simp] theorem State.takeCall_globalVolume (s : State) :
    (s.takeCall).globalVolume = s.globalVolume := by
  unfold State.takeCall; split <;> rfl

@[simp] theorem State.takeCall_tempo (s : State) :
    (s.takeCall).tempo = s.tempo := by
  unfold State.takeCall; split <;> rfl

@[simp] theorem State.takeCall_cursor (s : State) :
    (s.takeCall).cursor = s.cursor := by
  unfold State.takeCall; split <;> rfl

@[simp] theorem State.takeCall_halted (s : State) :
    (s.takeCall).halted = s.halted := by
  unfold State.takeCall; split <;> rfl

@[simp] theorem State.takeCall_noise (s : State) :
    (s.takeCall).noise = s.noise := by
  unfold State.takeCall; split <;> rfl

@[simp] theorem State.takeCall_presets (s : State) :
    (s.takeCall).presets = s.presets := by
  unfold State.takeCall; split <;> rfl

@[simp] theorem State.takeCall_tickPhase (s : State) :
    (s.takeCall).tickPhase = s.tickPhase := by
  unfold State.takeCall; split <;> rfl

@[simp] theorem State.takeCall_params (s : State) :
    (s.takeCall).params = s.params := by
  unfold State.takeCall; split <;> rfl

@[simp] theorem State.takeCall_stream (s : State) :
    (s.takeCall).stream = s.stream := by
  unfold State.takeCall; split <;> rfl

@[simp] theorem State.takeCall_streamLen (s : State) :
    (s.takeCall).streamLen = s.streamLen := by
  unfold State.takeCall; split <;> rfl

@[simp] theorem State.takeCall_inbox (s : State) :
    (s.takeCall).inbox = s.inbox := by
  unfold State.takeCall; split <;> rfl

@[simp] theorem State.takeCall_outputs (s : State) :
    (s.takeCall).outputs = s.outputs := by
  unfold State.takeCall; split <;> rfl

/-! ### settle -/

@[simp] theorem State.settle_voices (s : State) :
    (s.settle).voices = s.voices := by
  unfold State.settle; split <;> [rfl; (split <;> rfl)]

@[simp] theorem State.settle_globalVolume (s : State) :
    (s.settle).globalVolume = s.globalVolume := by
  unfold State.settle; split <;> [rfl; (split <;> rfl)]

@[simp] theorem State.settle_tempo (s : State) :
    (s.settle).tempo = s.tempo := by
  unfold State.settle; split <;> [rfl; (split <;> rfl)]

@[simp] theorem State.settle_cursor (s : State) :
    (s.settle).cursor = s.cursor := by
  unfold State.settle; split <;> [rfl; (split <;> rfl)]

@[simp] theorem State.settle_halted (s : State) :
    (s.settle).halted = s.halted := by
  unfold State.settle; split <;> [rfl; (split <;> rfl)]

@[simp] theorem State.settle_noise (s : State) :
    (s.settle).noise = s.noise := by
  unfold State.settle; split <;> [rfl; (split <;> rfl)]

@[simp] theorem State.settle_presets (s : State) :
    (s.settle).presets = s.presets := by
  unfold State.settle; split <;> [rfl; (split <;> rfl)]

@[simp] theorem State.settle_params (s : State) :
    (s.settle).params = s.params := by
  unfold State.settle; split <;> [rfl; (split <;> rfl)]

@[simp] theorem State.settle_stream (s : State) :
    (s.settle).stream = s.stream := by
  unfold State.settle; split <;> [rfl; (split <;> rfl)]

@[simp] theorem State.settle_streamLen (s : State) :
    (s.settle).streamLen = s.streamLen := by
  unfold State.settle; split <;> [rfl; (split <;> rfl)]

@[simp] theorem State.settle_inbox (s : State) :
    (s.settle).inbox = s.inbox := by
  unfold State.settle; split <;> [rfl; (split <;> rfl)]

@[simp] theorem State.settle_outputs (s : State) :
    (s.settle).outputs = s.outputs := by
  unfold State.settle; split <;> [rfl; (split <;> rfl)]

/-! ### mixerReset -/

@[simp] theorem State.mixerReset_tempo (s : State) :
    (s.mixerReset).tempo = s.tempo := rfl

@[simp] theorem State.mixerReset_cursor (s : State) :
    (s.mixerReset).cursor = s.cursor := rfl

@[simp] theorem State.mixerReset_halted (s : State) :
    (s.mixerReset).halted = s.halted := rfl

@[simp] theorem State.mixerReset_noise (s : State) :
    (s.mixerReset).noise = s.noise := rfl

@[simp] theorem State.mixerReset_presets (s : State) :
    (s.mixerReset).presets = s.presets := rfl

@[simp] theorem State.mixerReset_tickPhase (s : State) :
    (s.mixerReset).tickPhase = s.tickPhase := rfl

@[simp] theorem State.mixerReset_slots (s : State) :
    (s.mixerReset).slots = s.slots := rfl

@[simp] theorem State.mixerReset_direct (s : State) :
    (s.mixerReset).direct = s.direct := rfl

@[simp] theorem State.mixerReset_params (s : State) :
    (s.mixerReset).params = s.params := rfl

@[simp] theorem State.mixerReset_stream (s : State) :
    (s.mixerReset).stream = s.stream := rfl

@[simp] theorem State.mixerReset_streamLen (s : State) :
    (s.mixerReset).streamLen = s.streamLen := rfl

@[simp] theorem State.mixerReset_inbox (s : State) :
    (s.mixerReset).inbox = s.inbox := rfl

@[simp] theorem State.mixerReset_outputs (s : State) :
    (s.mixerReset).outputs = s.outputs := rfl

@[simp] theorem State.mixerReset_globalVolume (s : State) : s.mixerReset.globalVolume = 0#8 := rfl

/-! ### envConfigure -/

@[simp] theorem State.envConfigure_voices (s : State) (k : Nat) (a d : Word) (l : Byte) (r : Word) :
    (s.envConfigure k a d l r).voices = s.voices := by
  unfold State.envConfigure; split <;> rfl

@[simp] theorem State.envConfigure_globalVolume (s : State) (k : Nat) (a d : Word) (l : Byte) (r : Word) :
    (s.envConfigure k a d l r).globalVolume = s.globalVolume := by
  unfold State.envConfigure; split <;> rfl

@[simp] theorem State.envConfigure_tempo (s : State) (k : Nat) (a d : Word) (l : Byte) (r : Word) :
    (s.envConfigure k a d l r).tempo = s.tempo := by
  unfold State.envConfigure; split <;> rfl

@[simp] theorem State.envConfigure_cursor (s : State) (k : Nat) (a d : Word) (l : Byte) (r : Word) :
    (s.envConfigure k a d l r).cursor = s.cursor := by
  unfold State.envConfigure; split <;> rfl

@[simp] theorem State.envConfigure_halted (s : State) (k : Nat) (a d : Word) (l : Byte) (r : Word) :
    (s.envConfigure k a d l r).halted = s.halted := by
  unfold State.envConfigure; split <;> rfl

@[simp] theorem State.envConfigure_noise (s : State) (k : Nat) (a d : Word) (l : Byte) (r : Word) :
    (s.envConfigure k a d l r).noise = s.noise := by
  unfold State.envConfigure; split <;> rfl

@[simp] theorem State.envConfigure_tickPhase (s : State) (k : Nat) (a d : Word) (l : Byte) (r : Word) :
    (s.envConfigure k a d l r).tickPhase = s.tickPhase := by
  unfold State.envConfigure; split <;> rfl

@[simp] theorem State.envConfigure_slots (s : State) (k : Nat) (a d : Word) (l : Byte) (r : Word) :
    (s.envConfigure k a d l r).slots = s.slots := by
  unfold State.envConfigure; split <;> rfl

@[simp] theorem State.envConfigure_direct (s : State) (k : Nat) (a d : Word) (l : Byte) (r : Word) :
    (s.envConfigure k a d l r).direct = s.direct := by
  unfold State.envConfigure; split <;> rfl

@[simp] theorem State.envConfigure_params (s : State) (k : Nat) (a d : Word) (l : Byte) (r : Word) :
    (s.envConfigure k a d l r).params = s.params := by
  unfold State.envConfigure; split <;> rfl

@[simp] theorem State.envConfigure_stream (s : State) (k : Nat) (a d : Word) (l : Byte) (r : Word) :
    (s.envConfigure k a d l r).stream = s.stream := by
  unfold State.envConfigure; split <;> rfl

@[simp] theorem State.envConfigure_streamLen (s : State) (k : Nat) (a d : Word) (l : Byte) (r : Word) :
    (s.envConfigure k a d l r).streamLen = s.streamLen := by
  unfold State.envConfigure; split <;> rfl

@[simp] theorem State.envConfigure_inbox (s : State) (k : Nat) (a d : Word) (l : Byte) (r : Word) :
    (s.envConfigure k a d l r).inbox = s.inbox := by
  unfold State.envConfigure; split <;> rfl

@[simp] theorem State.envConfigure_outputs (s : State) (k : Nat) (a d : Word) (l : Byte) (r : Word) :
    (s.envConfigure k a d l r).outputs = s.outputs := by
  unfold State.envConfigure; split <;> rfl

end Sys2Proof.Machine
end

