-- ==== Sys2Proof/Laws/Voices.lean ====
section
/-! SUPPORT. What the voice operations can do, said once. -/

namespace Sys2Proof.Machine

/-- A change of voice `c` reaches voice `c` only, and nothing when there is no such voice
(43_mixer.md R185). -/
theorem State.updateVoice_getElem? (s : State) (c c' : Nat) (f : Voice → Voice) :
    (s.updateVoice c f).voices[c']? =
      if c' = c then (s.voices[c']?).map f else s.voices[c']? := by
  unfold State.updateVoice
  cases h : s.voices[c]? with
  | none =>
    by_cases hc : c' = c
    · subst hc; simp [h]
    · simp [hc]
  | some v =>
    have hlt : c < s.voices.length := (List.getElem?_eq_some_iff.mp h).1
    by_cases hc : c' = c
    · subst hc; simp [List.getElem?_set_self hlt, h]
    · simp [hc, List.getElem?_set_ne (Ne.symm hc)]

@[simp] theorem State.updateVoice_length (s : State) (c : Nat) (f : Voice → Voice) :
    (s.updateVoice c f).voices.length = s.voices.length := by
  unfold State.updateVoice; split <;> simp

/-- A change of a voice that does not exist is no change (43_mixer.md R185). -/
theorem State.updateVoice_beyond (s : State) (c : Nat) (f : Voice → Voice) (h : s.numVoices ≤ c) :
    s.updateVoice c f = s := by
  unfold State.updateVoice
  rw [List.getElem?_eq_none h]

/-- A change of a voice changes no other field. -/
theorem State.updateVoice_eq (s : State) (c : Nat) (f : Voice → Voice) :
    s.updateVoice c f = { s with voices := (s.updateVoice c f).voices } := by
  unfold State.updateVoice; split <;> rfl

/-- Every voice after a change is one from before or the changed one. -/
theorem State.mem_updateVoice {s : State} {c : Nat} {f : Voice → Voice} {v : Voice}
    (h : v ∈ (s.updateVoice c f).voices) : v ∈ s.voices ∨ ∃ u ∈ s.voices, v = f u := by
  obtain ⟨n, hn⟩ := List.getElem?_of_mem h
  rw [State.updateVoice_getElem?] at hn
  split at hn
  · obtain ⟨u, hu, rfl⟩ := Option.map_eq_some_iff.mp hn
    exact .inr ⟨u, List.mem_of_getElem? hu, rfl⟩
  · exact .inl (List.mem_of_getElem? hn)

/-- `SetAdsr` is a change of one voice or none (43_mixer.md R186). -/
theorem State.setAdsr_cases (s : State) (c : Nat) (k : Byte) :
    (s.numPresets < k.toNat ∧ s.setAdsr c k = s) ∨
    (k.toNat ≤ s.numPresets ∧ s.setAdsr c k = s.updateVoice c (setAdsrVoice s.presets k)) := by
  unfold State.setAdsr
  split
  · exact .inl ⟨‹_›, rfl⟩
  · exact .inr ⟨by omega, rfl⟩

/-- `SyncOscillators` is a change of one phase, or none when the source does not exist
(43_mixer.md R183). -/
theorem State.syncOscillators_cases (s : State) (a b : Nat) :
    (s.numVoices ≤ b ∧ s.syncOscillators a b = s) ∨
    ∃ source, s.voices[b]? = some source ∧
      s.syncOscillators a b = s.updateVoice a fun v => { v with phase := source.phase } := by
  unfold State.syncOscillators
  split
  · exact .inr ⟨_, ‹_›, rfl⟩
  · exact .inl ⟨List.getElem?_eq_none_iff.mp ‹_›, rfl⟩

/-- `EnvConfigure` writes one preset or none (42_envelope.md R144). -/
theorem State.envConfigure_cases (s : State) (k : Nat) (a d : Word) (l : Byte) (r : Word) :
    ((k = 0 ∨ s.numPresets < k) ∧ s.envConfigure k a d l r = s) ∨
    (1 ≤ k ∧ k ≤ s.numPresets ∧ s.envConfigure k a d l r =
      { s with presets := s.presets.set (k - 1) (configuredPreset s.params.sampleRate a d l r) }) := by
  unfold State.envConfigure
  split
  · exact .inl ⟨‹_›, rfl⟩
  · exact .inr ⟨by omega, by omega, rfl⟩

/-- The mixer's reset of a voice gives the voice of 10_state.md R33, whatever it was (R34). -/
@[simp] theorem resetVoice_eq (p : Params) (presets : List Preset) (v : Voice) :
    resetVoice p presets v = Voice.atReset p.waveMap := by
  have h : envCompare (envPreset presets 0#5).attackTicks 255 = 0#32 := by
    simp [envPreset, bypassPreset, envCompare]
  simp [resetVoice, envReset, h, SubTimer.setCompare, Voice.atReset, Envelope.atReset, envEntry]

/-- `MixerReset` leaves every voice at its reset values (10_state.md R34). -/
@[simp] theorem State.mixerReset_voices (s : State) :
    s.mixerReset.voices = List.replicate s.numVoices (Voice.atReset s.params.waveMap) := by
  have h : resetVoice s.params s.presets = fun _ => Voice.atReset s.params.waveMap :=
    funext (resetVoice_eq s.params s.presets)
  simp [State.mixerReset, State.numVoices, h]

end Sys2Proof.Machine
end

