-- ==== Sys2Proof/Laws/Step.lean ====
section
/-! SUPPORT. What each command's meaning is over the shared operations, and what a step can do, said once. -/

namespace Sys2Proof.Machine

/-! ### The meanings over the shared operations -/

@[simp] theorem exec_noAction (ch : Nibble) (s : State) :
    exec (.noAction ch) s = .next (s.advance 1) := rfl

@[simp] theorem exec_setTempo (ch : Nibble) (w : Word) (s : State) :
    exec (.setTempo ch w) s = .next
      { s.advance 3 with tempo := ⟨(msToTicks s.params.sampleRate w).setWidth 32, 0#32⟩ } := rfl

@[simp] theorem exec_setWave (ch : Nibble) (b : Byte) (s : State) :
    exec (.setWave ch b) s = .next ((s.advance 2).setWave ch.toNat b) := rfl

@[simp] theorem exec_setVolume (ch : Nibble) (b : Byte) (s : State) :
    exec (.setVolume ch b) s = .next ((s.advance 2).setVolume ch.toNat b) := rfl

@[simp] theorem exec_setGlobalVolume (ch : Nibble) (b : Byte) (s : State) :
    exec (.setGlobalVolume ch b) s = .next ((s.advance 2).setGlobalVolume b) := rfl

@[simp] theorem exec_noteOn (ch : Nibble) (b : Byte) (s : State) :
    exec (.noteOn ch b) s = .next ((s.advance 2).noteOn ch.toNat (noteIndex b)) := rfl

@[simp] theorem exec_noteOff (ch : Nibble) (s : State) :
    exec (.noteOff ch) s = .next ((s.advance 1).noteOff ch.toNat) := rfl

@[simp] theorem exec_endOfStream (ch : Nibble) (s : State) :
    exec (.endOfStream ch) s = .next (s.advance 1).halt := rfl

@[simp] theorem exec_softwareReset (ch : Nibble) (s : State) :
    exec (.softwareReset ch) s = .next (s.advance 1).mixerReset := rfl

@[simp] theorem exec_syncOscillator (ch : Nibble) (b : Byte) (s : State) :
    exec (.syncOscillator ch b) s =
      .next ((s.advance 2).syncOscillators ch.toNat (sourceIndex b)) := rfl

@[simp] theorem exec_resetOscillator (ch : Nibble) (s : State) :
    exec (.resetOscillator ch) s = .next ((s.advance 1).resetOscillator ch.toNat) := rfl

@[simp] theorem exec_setADSR (ch : Nibble) (b : Byte) (s : State) :
    exec (.setADSR ch b) s = .next ((s.advance 2).setAdsr ch.toNat b) := rfl

@[simp] theorem exec_jumpInFile (ch : Nibble) (w : Word) (s : State) :
    exec (.jumpInFile ch w) s = .next { s with cursor := w } := rfl

@[simp] theorem exec_setDuty (ch : Nibble) (b : Byte) (s : State) :
    exec (.setDuty ch b) s = .next ((s.advance 2).setDuty ch.toNat b) := rfl

@[simp] theorem exec_directExec (ch : Nibble) (b : Byte) (s : State) :
    exec (.directExec ch b) s = .next
      { s.advance 2 with
        slots := 0
        direct := if b.toNat = 0 then s.direct else b.toNat :: s.direct } := rfl

/-- SetADSRValues configures the preset of the addressed voice, preset 0 standing for no voice
(44_tracker.md R225: a bypassed voice and a missing one both change nothing). -/
@[simp] theorem exec_setADSRValues (ch : Nibble) (a d : Word) (l : Byte) (r : Word) (s : State) :
    exec (.setADSRValues ch a d l r) s = .next ((s.advance 8).envConfigure
      (((s.voices[ch.toNat]?).map fun v => v.env.type.toNat).getD 0) a d l r) := by
  show execSetADSRValues ch a d l r s = _
  unfold execSetADSRValues channelIndex
  cases s.voices[ch.toNat]? with
  | none => simp [State.envConfigure]
  | some v => rfl

/-! ### The step -/

theorem step_idle {s : State} (h : s.tickPhase = .idle) : step s = .next s.acceptMoment := by
  simp [step, h]

theorem step_synth {s : State} (h : s.tickPhase = .synth) : step s = s.synth := by
  simp [step, h]

theorem step_burst {s : State} {i : Instr} (h : s.tickPhase = .burst) (hf : s.fetchInstr = .ok i) :
    step s = settleOutcome (exec i s.takeCall) := by
  simp [step, h, hf]

theorem step_burst_error {s : State} {r : Fault} (h : s.tickPhase = .burst)
    (hf : s.fetchInstr = .error r) : step s = .fault r := by
  simp [step, h, hf]

/-- What a step that answers a next state did: it took a moment of the outside world, ran one command, or
synthesised. -/
theorem step_cases {s t : State} (h : step s = .next t) :
    (s.tickPhase = .idle ∧ t = s.acceptMoment) ∨
    (s.tickPhase = .burst ∧ ∃ i u, s.fetchInstr = .ok i ∧ exec i s.takeCall = .next u ∧ t = u.settle) ∨
    (s.tickPhase = .synth ∧ s.synth = .next t) := by
  cases hp : s.tickPhase with
  | idle =>
    rw [step_idle hp] at h
    cases h
    exact .inl ⟨rfl, rfl⟩
  | burst =>
    refine .inr (.inl ⟨rfl, ?_⟩)
    cases hf : s.fetchInstr with
    | error r => rw [step_burst_error hp hf] at h; cases h
    | ok i =>
      rw [step_burst hp hf] at h
      cases he : exec i s.takeCall with
      | next u => rw [he] at h; cases h; exact ⟨i, u, rfl, he, rfl⟩
      | fault r => rw [he] at h; cases h
      | refused r => rw [he] at h; cases h
  | synth =>
    rw [step_synth hp] at h
    exact .inr (.inr ⟨rfl, h⟩)

/-- What a completed synthesis did. -/
theorem synth_cases {s t : State} (h : s.synth = .next t) :
    ∃ acc voices noise, synthVoices s.params s.presets s.noise s.voices = .ok (acc, voices, noise) ∧
      t = { s with
        voices := voices
        noise := noise
        tickPhase := .idle
        outputs :=
          .sample (mixOutput s.params s.numVoices s.globalVolume acc) :: s.outputs } := by
  unfold State.synth at h
  split at h
  · cases h
  · cases h; exact ⟨_, _, _, ‹_›, rfl⟩

/-- Where the tick goes on after a command. -/
theorem State.settle_cases (s : State) :
    (s.halted = true ∧ s.settle = { s with tickPhase := .idle, slots := 0, direct := [] }) ∨
    (s.halted = false ∧ s.slots = 0 ∧ s.direct = [] ∧ s.settle = { s with tickPhase := .synth }) ∨
    (s.halted = false ∧ ¬(s.slots = 0 ∧ s.direct = []) ∧ s.settle = { s with tickPhase := .burst }) := by
  unfold State.settle State.burstDone
  by_cases h : s.halted = true
  · simp [h]
  · by_cases h' : s.slots = 0 ∧ s.direct = []
    · simp [h, h'.1, h'.2]
    · have : (s.slots == 0 && s.direct.isEmpty) = false := by
        rw [Bool.eq_false_iff]; simpa using h'
      simp [h, this, h']

/-- What the beginning of a sample tick does: nothing when halted; on a firing of the tempo clock it starts a
burst, without voices goes on to the synthesis; without a firing goes on to the synthesis. -/
theorem State.beginTick_cases (s : State) :
    (s.halted = true ∧ s.beginTick = s) ∨
    (s.halted = false ∧ s.tempo.compare.toNat ≤ (s.tempo.counter + 1#32).toNat ∧
      s.beginTick = { s with
        tempo := ⟨s.tempo.compare, 0#32⟩
        cursor := if s.streamLen ≤ s.cursor.toNat then 0#16 else s.cursor
        slots := s.numVoices
        direct := []
        tickPhase := if s.numVoices = 0 then .synth else .burst }) ∨
    (s.halted = false ∧ (s.tempo.counter + 1#32).toNat < s.tempo.compare.toNat ∧
      s.beginTick = { s with
        tempo := ⟨s.tempo.compare, s.tempo.counter + 1#32⟩
        tickPhase := .synth }) := by
  unfold State.beginTick
  by_cases hh : s.halted = true
  · exact .inl ⟨hh, if_pos hh⟩
  · have hf : s.halted = false := by simpa using hh
    refine .inr ?_
    rw [if_neg hh]
    obtain ⟨h, ht⟩ | ⟨h, ht⟩ := s.tempo.tickInc_cases 1#32
    · refine .inl ⟨hf, h, ?_⟩
      simp only [SubTimer.tick, ht, if_true]
      obtain ⟨h1, -⟩ | ⟨-, h1, -, h2⟩ | ⟨-, h1, h2⟩ :=
        ({ s with tempo := ⟨s.tempo.compare, 0#32⟩ } : State).startBurst.settle_cases
      · exact absurd h1 hh
      · have hn : s.numVoices = 0 := h1
        rw [h2, if_pos hn]
        simp [State.startBurst, State.pastEnd, State.numVoices]
      · have hn : s.numVoices ≠ 0 := fun h0 => h1 ⟨h0, rfl⟩
        rw [h2, if_neg hn]
        simp [State.startBurst, State.pastEnd, State.numVoices]
    · refine .inr ⟨hf, h, ?_⟩
      simp [SubTimer.tick, ht]

/-- What arrives when the next moment is taken. -/
theorem State.acceptMoment_cases (s : State) :
    (s.inbox = [] ∧ s.acceptMoment = s.beginTick) ∨
    ∃ m rest, s.inbox = m :: rest ∧
      ((m.reset = true ∧ s.acceptMoment = { s with inbox := rest }.hardReset) ∨
       (m.reset = false ∧ m.event = some .sampleTick ∧
          s.acceptMoment = { s with inbox := rest }.beginTick) ∨
       (m.reset = false ∧ ∃ op, m.event = some (.hostOp op) ∧
          s.acceptMoment = { s with inbox := rest }.applyHostOp op) ∨
       (m.reset = false ∧ m.event = none ∧ s.acceptMoment = { s with inbox := rest })) := by
  unfold State.acceptMoment State.deliver
  cases s.inbox with
  | nil => exact .inl ⟨rfl, rfl⟩
  | cons m rest =>
    refine .inr ⟨m, rest, rfl, ?_⟩
    obtain ⟨reset, event⟩ := m
    cases reset with
    | true => exact .inl ⟨rfl, rfl⟩
    | false =>
      cases event with
      | none => exact .inr (.inr (.inr ⟨rfl, rfl, rfl⟩))
      | some e =>
        cases e with
        | sampleTick => exact .inr (.inl ⟨rfl, rfl, rfl⟩)
        | hostOp op => exact .inr (.inr (.inl ⟨rfl, op, rfl, rfl⟩))

/-- Taking a call changes the two counters only. -/
theorem State.takeCall_eq (s : State) :
    s.takeCall = { s with slots := s.takeCall.slots, direct := s.takeCall.direct } := by
  unfold State.takeCall; split <;> rfl

/-- The state that a Reset leaves, written out (10_state.md R33). -/
theorem State.hardReset_eq (s : State) : s.hardReset = { s with
    voices := List.replicate s.numVoices (Voice.atReset s.params.waveMap)
    globalVolume := 0#8
    tempo := { compare := s.params.tempoDefaultCompare, counter := 0#32 }
    cursor := 0#16
    halted := false
    noise := s.params.noiseSeed
    presets := s.params.presetInit
    tickPhase := .idle
    slots := 0
    direct := [] } := by
  unfold State.hardReset
  simp only [State.mixerReset_voices]
  simp [State.numVoices, State.mixerReset]

/-! ### Frames -/

/-- What every command and every host operation leaves alone. -/
structure KeepsRun (s t : State) : Prop where
  stream : t.stream = s.stream
  streamLen : t.streamLen = s.streamLen
  params : t.params = s.params
  noise : t.noise = s.noise
  inbox : t.inbox = s.inbox
  numVoices : t.numVoices = s.numVoices
  numPresets : t.numPresets = s.numPresets

theorem KeepsRun.refl (s : State) : KeepsRun s s := ⟨rfl, rfl, rfl, rfl, rfl, rfl, rfl⟩

theorem KeepsRun.advance (s : State) (n : Nat) : KeepsRun s (s.advance n) :=
  ⟨rfl, rfl, rfl, rfl, rfl, rfl, rfl⟩

theorem KeepsRun.trans {s t u : State} (h : KeepsRun s t) (h' : KeepsRun t u) : KeepsRun s u :=
  ⟨h'.1.trans h.1, h'.2.trans h.2, h'.3.trans h.3, h'.4.trans h.4, h'.5.trans h.5, h'.6.trans h.6,
    h'.7.trans h.7⟩

theorem KeepsRun.updateVoice (s : State) (c : Nat) (f : Voice → Voice) :
    KeepsRun s (s.updateVoice c f) := by
  constructor <;> simp [State.numVoices, State.numPresets]

theorem KeepsRun.mixerReset (s : State) : KeepsRun s s.mixerReset := by
  constructor <;> simp [State.numVoices, State.numPresets, State.mixerReset]

theorem KeepsRun.syncOscillators (s : State) (a b : Nat) : KeepsRun s (s.syncOscillators a b) := by
  obtain ⟨-, h⟩ | ⟨_, -, h⟩ := s.syncOscillators_cases a b <;> rw [h]
  · exact .refl s
  · exact .updateVoice ..

theorem KeepsRun.setAdsr (s : State) (c : Nat) (k : Byte) : KeepsRun s (s.setAdsr c k) := by
  obtain ⟨-, h⟩ | ⟨-, h⟩ := s.setAdsr_cases c k <;> rw [h]
  · exact .refl s
  · exact .updateVoice ..

theorem KeepsRun.envConfigure (s : State) (k : Nat) (a d : Word) (l : Byte) (r : Word) :
    KeepsRun s (s.envConfigure k a d l r) := by
  obtain ⟨-, h⟩ | ⟨-, -, h⟩ := s.envConfigure_cases k a d l r <;> rw [h]
  · exact .refl s
  · constructor <;> simp [State.numVoices, State.numPresets]

/-- A host operation keeps the run's fixed parts, the noise state and the sizes. -/
theorem KeepsRun.applyHostOp (s : State) (op : HostOp) : KeepsRun s (s.applyHostOp op) := by
  cases op with
  | mixerReset => exact .mixerReset s
  | setGlobalVolume _ => exact ⟨rfl, rfl, rfl, rfl, rfl, rfl, rfl⟩
  | syncOscillators a b => exact .syncOscillators s a b
  | setAdsr c k => exact .setAdsr s c k
  | envConfigure k a d l r => exact .envConfigure s k.toNat a d l r
  | _ => exact .updateVoice s _ _

/-- A command keeps the run's fixed parts, the noise state and the sizes. -/
theorem KeepsRun.exec {i : Instr} {s t : State} (h : exec i s = .next t) : KeepsRun s t := by
  cases i <;> simp only [exec_noAction, exec_setTempo, exec_setWave, exec_setVolume,
    exec_setGlobalVolume, exec_noteOn, exec_noteOff, exec_endOfStream, exec_softwareReset,
    exec_syncOscillator, exec_resetOscillator, exec_setADSR, exec_jumpInFile, exec_setDuty,
    exec_directExec, exec_setADSRValues, Host.Outcome.next.injEq] at h <;> subst h
  case softwareReset => exact (advance s 1).trans (mixerReset _)
  case syncOscillator => exact (advance s 2).trans (syncOscillators _ _ _)
  case setADSR => exact (advance s 2).trans (setAdsr _ _ _)
  case setADSRValues => exact (advance s 8).trans (envConfigure _ _ _ _ _ _)
  all_goals first
    | exact ⟨rfl, rfl, rfl, rfl, rfl, rfl, rfl⟩
    | exact (advance s 2).trans (updateVoice _ _ _)
    | exact (advance s 1).trans (updateVoice _ _ _)

/-! ### Runs -/

theorem run_zero (M : Host.Core) (s : M.State) : M.run 0 s = .next s := by rw [Host.Core.run]

/-- A run whose first step answers a next state goes on from it. -/
theorem run_succ_next (M : Host.Core) {s t : M.State} (k : Nat) (h : M.step s = .next t) :
    M.run (k + 1) s = M.run k t := by
  rw [Host.Core.run, h]

/-- A run whose first step faults is that fault. -/
theorem run_succ_fault (M : Host.Core) {s : M.State} {r : M.Fault} (k : Nat) (h : M.step s = .fault r) :
    M.run (k + 1) s = .fault r := by
  rw [Host.Core.run, h]

/-- A run whose first step is refused is that refusal. -/
theorem run_succ_refused (M : Host.Core) {s : M.State} {r : M.Refusal} (k : Nat)
    (h : M.step s = .refused r) : M.run (k + 1) s = .refused r := by
  rw [Host.Core.run, h]

end Sys2Proof.Machine
end

