-- ==== Sys2Proof/Tests/Slice0.lean ====
section
/-! SUPPORT. The model's own tests, and for every statement with hypotheses a witness that meets them. The expected
results are the vectors of spec/95_test_vectors.md (named in each comment) or hand calculation from the rules. -/

namespace Sys2Proof.Tests

open Sys2Proof Sys2Proof.Machine

/-! ### WellFormed: each check refuses an ill-formed command -/

theorem test_wf_channel : (Instr.noAction 1#4).channelCanonical = false := by decide
theorem test_wf_wave : (Instr.setWave 0#4 7#8).waveDefined .enumerationOrder = false := by decide
theorem test_wf_note : (Instr.noteOn 0#4 128#8).noteCanonical = false := by decide
theorem test_wf_source : (Instr.syncOscillator 0#4 16#8).sourceCanonical = false := by decide
theorem test_wf_refuses : (Instr.noAction 1#4).wellFormed .enumerationOrder = false ∧
    (Instr.setWave 0#4 7#8).wellFormed .enumerationOrder = false ∧ (Instr.noteOn 0#4 128#8).wellFormed .enumerationOrder = false ∧
    (Instr.syncOscillator 0#4 16#8).wellFormed .enumerationOrder = false := by decide
theorem test_wf_accepts : (Instr.noteOn 3#4 127#8).wellFormed .enumerationOrder = true ∧
    (Instr.setWave 15#4 6#8).wellFormed .enumerationOrder = true := by decide

/-! ### Decoding: one word per constructor (95_test_vectors.md 2.5) -/

theorem test_decode_noAction : decode .tableOrder [0x0F#8] = .ok (.noAction 15#4, []) := by rfl
theorem test_decode_setTempo : decode .tableOrder [0x10#8, 0x00#8, 0xC8#8] = .ok (.setTempo 0#4 200#16, []) := by rfl
theorem test_decode_setWave : decode .tableOrder [0x21#8, 0x03#8] = .ok (.setWave 1#4 3#8, []) := by rfl
theorem test_decode_setVolume : decode .tableOrder [0x31#8, 0xC8#8] = .ok (.setVolume 1#4 200#8, []) := by rfl
theorem test_decode_setGlobalVolume :
    decode .tableOrder [0x4A#8, 0x80#8] = .ok (.setGlobalVolume 10#4 128#8, []) := by rfl
theorem test_decode_noteOn : decode .tableOrder [0x50#8, 0xBC#8] = .ok (.noteOn 0#4 0xBC#8, []) := by rfl
theorem test_decode_noteOff : decode .tableOrder [0x61#8, 0x70#8] = .ok (.noteOff 1#4, [0x70#8]) := by rfl
theorem test_decode_endOfStream : decode .tableOrder [0x70#8] = .ok (.endOfStream 0#4, []) := by rfl
theorem test_decode_softwareReset : decode .tableOrder [0x80#8] = .ok (.softwareReset 0#4, []) := by rfl
theorem test_decode_syncOscillator : decode .tableOrder [0x91#8, 0xF0#8] = .ok (.syncOscillator 1#4 0xF0#8, []) := by
  rfl
theorem test_decode_resetOscillator : decode .tableOrder [0xA1#8] = .ok (.resetOscillator 1#4, []) := by rfl
theorem test_decode_setADSR : decode .tableOrder [0xB1#8, 0x01#8] = .ok (.setADSR 1#4 1#8, []) := by rfl
theorem test_decode_jumpInFile :
    decode .tableOrder [0xC0#8, 0x12#8, 0x34#8] = .ok (.jumpInFile 0#4 0x1234#16, []) := by rfl
theorem test_decode_setDuty : decode .tableOrder [0xD1#8, 0x40#8] = .ok (.setDuty 1#4 64#8, []) := by rfl
theorem test_decode_directExec : decode .tableOrder [0xE0#8, 0x02#8] = .ok (.directExec 0#4 2#8, []) := by rfl
theorem test_decode_setADSRValues :
    decode .tableOrder [0xF1#8, 0x00#8, 0x01#8, 0x00#8, 0x0A#8, 0x64#8, 0x00#8, 0x64#8] =
      .ok (.setADSRValues 1#4 1#16 10#16 100#8 100#16, []) := by rfl
theorem test_decode_truncated : decode .tableOrder [0xC0#8, 0x12#8] = .error .truncated := by rfl

/-- The numbering of opcode_table.json: the opcode byte is the low byte of the word. -/
theorem test_table_word : decodeTableWord 24 0xC80010 = some (.setTempo 0#4 200#16) := by rfl
theorem test_table_word_short : decodeTableWord 8 0x10 = some (.setTempo 0#4 0#16) := by rfl

/-- A voice as a Reset leaves it under the default WAVE_MAP (10_state.md R33). -/
def silent : Voice := Voice.atReset .enumerationOrder

/-! ### The start state K0 (95_test_vectors.md 2.6) -/

/-- N = 2, P = 2, 16000 Hz, tables n ↦ n, `bytes` at address 0, a burst with two calls outstanding. -/
def k0 (bytes : List Byte) : State where
  voices := [{ silent with phase := 33#8 },
    { silent with
      phase := 77#8, tuningWord := 9#8
      env := ⟨1#5, .sustain, false, 200#8, ⟨0x80000000#32, 0#32⟩⟩ }]
  globalVolume := 0#8
  tempo := ⟨5#32, 0#32⟩
  cursor := 0#16
  halted := false
  noise := 1#32
  presets := [⟨159#16, 1599#16, 200#8, 7999#16⟩, Preset.zero]
  tickPhase := .burst
  slots := 2
  direct := []
  params :=
    { sampleRate := 16000
      freqTable := .ofFn fun i => .ofNat 8 i.val
      sineTable := .ofFn fun i => .ofNat 8 i.val
      noiseSeed := 1#32
      tempoDefaultCompare := 5#32
      presetInit := [Preset.zero, Preset.zero]
      scaleMode := .plain
      opcodeMap := .tableOrder
      waveMap := .enumerationOrder
      remap := .floor }
  stream := Memory.writeBytes [] 0#16 bytes
  streamLen := bytes.length
  inbox := []
  outputs := []

/-- What one step leaves, seen through `f`. -/
def see {α : Type} (f : State → α) : Host.Outcome State Fault Refusal → Option α
  | .next t => some (f t)
  | .fault _ => none
  | .refused _ => none

/-- One step on K0 with these bytes. -/
def after {α : Type} (f : State → α) (bytes : List Byte) : Option α := see f (step (k0 bytes))

/-! ### Single commands (95_test_vectors.md 2.6) -/

theorem test_X0 : after (fun t => (t.cursor, t.slots, t.voices)) [0x00#8] =
    some (1#16, 1, (k0 []).voices) := by decide
theorem test_X1 : after (fun t => (t.cursor, t.tempo)) [0x10#8, 0x00#8, 0xC8#8] =
    some (3#16, ⟨3199#32, 0#32⟩) := by decide
theorem test_X1b : after (fun t => (t.cursor, t.tempo)) [0x1F#8, 0x03#8, 0xE8#8] =
    some (3#16, ⟨15999#32, 0#32⟩) := by decide
theorem test_X2 : after (fun t => (t.cursor, t.voices.map (·.waveform))) [0x21#8, 0x03#8] =
    some (2#16, [0#8, 3#8]) := by decide
theorem test_X2b : after (fun t => (t.cursor, t.voices)) [0x22#8, 0x07#8] =
    some (2#16, (k0 []).voices) := by decide
theorem test_X3 : after (fun t => (t.cursor, t.voices.map (·.volume))) [0x31#8, 0xC8#8] =
    some (2#16, [0#8, 200#8]) := by decide
theorem test_X4 : after (fun t => (t.cursor, t.globalVolume)) [0x4A#8, 0x80#8] =
    some (2#16, 128#8) := by decide
theorem test_X5 : after (fun t => t.voices[0]?) [0x50#8, 0xBC#8] =
    some (some ⟨0#8, 127#8, 60#8, 33#8, 0#8, ⟨0#5, .attack, false, 0#8, ⟨0#32, 0#32⟩⟩⟩) := by decide
theorem test_X5b : after (fun t => t.voices[1]?) [0x51#8, 0x45#8] =
    some (some ⟨0#8, 127#8, 69#8, 77#8, 0#8, ⟨1#5, .attack, false, 0#8, ⟨639#32, 0#32⟩⟩⟩) := by decide
theorem test_X6 : after (fun t => t.voices[1]?) [0x61#8] =
    some (some ⟨0#8, 127#8, 9#8, 77#8, 0#8, ⟨1#5, .release, false, 200#8, ⟨40955#32, 0#32⟩⟩⟩) := by
  decide
theorem test_X7 : after (fun t => (t.cursor, t.halted, t.outputs, t.tickPhase)) [0x70#8] =
    some (1#16, true, [.streamEnd], .idle) := by decide
theorem test_X8 : after (fun t => (t.cursor, t.voices, t.tempo)) [0x80#8] =
    some (1#16, [silent, silent], ⟨5#32, 0#32⟩) := by decide
theorem test_X9 : after (fun t => (t.cursor, t.voices.map (·.phase))) [0x91#8, 0x00#8] =
    some (2#16, [33#8, 33#8]) := by decide
theorem test_X9c : after (fun t => (t.cursor, t.voices.map (·.phase))) [0x91#8, 0x02#8] =
    some (2#16, [33#8, 77#8]) := by decide
theorem test_X10 : after (fun t => (t.cursor, t.voices.map (·.phase))) [0xA1#8] =
    some (1#16, [33#8, 0#8]) := by decide
theorem test_X11 : after (fun t => t.voices[1]?) [0xB1#8, 0x01#8] =
    some (some ⟨0#8, 127#8, 9#8, 77#8, 0#8, ⟨1#5, .attack, true, 0#8, ⟨639#32, 0#32⟩⟩⟩) := by decide
theorem test_X11c : after (fun t => (t.cursor, t.voices)) [0xB1#8, 0x03#8] =
    some (2#16, (k0 []).voices) := by decide
theorem test_X12 : after (fun t => (t.cursor, t.slots)) [0xC0#8, 0x12#8, 0x34#8] =
    some (0x1234#16, 1) := by decide
theorem test_X13 : after (fun t => (t.cursor, t.voices.map (·.duty))) [0xD1#8, 0x40#8] =
    some (2#16, [127#8, 64#8]) := by decide
theorem test_X14 : after (fun t => (t.cursor, t.tickPhase, t.direct)) [0xE0#8, 0x00#8] =
    some (2#16, .synth, []) := by decide
theorem test_directExec_runs_its_count :
    after (fun t => (t.cursor, t.tickPhase, t.slots, t.direct)) [0xE0#8, 0x02#8, 0x31#8] =
      some (2#16, .burst, 0, [2]) := by decide
theorem test_X15 : after (fun t => (t.cursor, t.presets))
    [0xF1#8, 0x00#8, 0x01#8, 0x00#8, 0x0A#8, 0x64#8, 0x00#8, 0x64#8] =
      some (8#16, [⟨15#16, 159#16, 100#8, 1599#16⟩, Preset.zero]) := by decide
theorem test_X15b : after (fun t => (t.cursor, t.presets))
    [0xF0#8, 0x00#8, 0x01#8, 0x00#8, 0x0A#8, 0x64#8, 0x00#8, 0x64#8] =
      some (8#16, (k0 []).presets) := by decide

/-! ### The stream, the tick, reset -/

/-- A command cut short by the stream's end faults at the first missing address (R68). -/
theorem test_overrun : step (k0 [0xC0#8, 0x12#8]) = .fault (.streamOverrun 2#16) := by rfl

/-- A word read at the top of the address space takes its second byte at address 0 (20_memory.md R63). -/
theorem test_word_wraps :
    ({ k0 [] with stream := [(0, 0x34#8), (65535, 0x12#8)], streamLen := 65536 } : State).memRead2
      0xFFFF#16 = some 0x1234#16 := by decide

/-- The recursive form of 44_tracker.md R200 on a nested DirectExec: X14d. -/
theorem test_X14d : (match fetchExecute 4 (k0 [0xE0#8, 0x02#8, 0xE0#8, 0x01#8, 0x00#8, 0x00#8]) with
    | some (.next (t, more)) => some (t.cursor, more)
    | _ => none) = some (6#16, true) := by decide

/-- X14c: the halt leaves the loop before the SetVolume. -/
theorem test_X14c : (match fetchExecute 4 (k0 [0xE0#8, 0x03#8, 0x70#8, 0x31#8, 0xFF#8]) with
    | some (.next (t, more)) => some (t.cursor, t.halted, more)
    | _ => none) = some (3#16, true, true) := by decide

/-- A tempo firing past the stream's end wraps the cursor and starts a burst of N calls (R200, R67). -/
theorem test_tempo_fires :
    see (fun t => (t.cursor, t.tickPhase, t.slots, t.tempo))
      (step { k0 [0x00#8] with tickPhase := .idle, slots := 0, cursor := 1#16, tempo := ⟨5#32, 4#32⟩ }) =
      some (0#16, .burst, 2, ⟨5#32, 0#32⟩) := by decide

/-- A halted machine ignores the SampleTick (43_mixer.md R170). -/
theorem test_halted_ignores :
    see (fun t => (t.tempo, t.tickPhase, t.outputs))
      (step { k0 [0x00#8] with tickPhase := .idle, slots := 0, halted := true }) =
      some (⟨5#32, 0#32⟩, .idle, []) := by decide

/-- A Reset of the reset state changes nothing (70_reset_and_hazards.md R270). -/
theorem test_reset_is_fixed : State.reset.hardReset = State.reset := by rfl

/-- The tempo default is the conversion of 200 ms at the model's sample rate (00_scope.md R7). -/
theorem test_tempo_default :
    (msToTicks Config.sampleRate 200#16).setWidth 32 = Config.tempoDefaultCompare := by decide

/-- The state prepared from reset for SetVolume(ch1, 200) runs it. -/
theorem test_prepared_word :
    see (fun t => (t.cursor, t.voices.map (·.volume)))
      (step (State.reset.withFetchWord 16 0xC831)) =
      some (2#16, [0#8, 200#8, 0#8, 0#8, 0#8, 0#8]) := by decide

/-! ### Other maps than the defaults (00_scope.md R7, 93_implementation_defined.md U14) -/

/-- NoAction and EndOfStream with their numbers exchanged. -/
def swappedOpcodes : OpcodeMap where
  table := (OpcodeMap.tableOrder.table.set 0 .endOfStream).set 7 .noAction

theorem test_opcode_map : decode swappedOpcodes [0x70#8] = .ok (.noAction 0#4, []) ∧
    encode swappedOpcodes (.endOfStream 3#4) = [0x03#8] ∧ swappedOpcodes.Bijective := by
  refine ⟨rfl, by decide, by decide⟩

/-- The step decodes by the run's map: 0x00 halts. -/
theorem test_opcode_map_step :
    see (·.halted) (step ((k0 [0x00#8]).withOpcodeMap swappedOpcodes)) = some true := by decide

/-- With None and DC exchanged, code 0 is DC and the reset gives the code 6. -/
def swappedWaves : WaveMap := { WaveMap.enumerationOrder with none := 6#8, dc := 0#8 }

theorem test_wave_map : swappedWaves.waveform 0#8 = some .dc ∧ swappedWaves.waveform 7#8 = none ∧
    (Voice.atReset swappedWaves).waveform = 6#8 ∧ swappedWaves.Injective := by decide

/-- A remap of one voice that sends every sum to 300 is clamped to 255 (43_mixer.md R172, R173). -/
theorem test_remap_table :
    see (·.outputs) (step { k0 [] with
      voices := [silent]
      params := { (k0 []).params with remap := .table (List.replicate 256 300) }
      globalVolume := 255#8
      tickPhase := .synth }) = some [.sample 255#8] := by decide

/-! ### The operations (95_test_vectors.md 2.1 to 2.4) -/

theorem test_T4 : (⟨1205#32, 1024#32⟩ : SubTimer).tickInc 1024#32 = (true, ⟨1205#32, 0#32⟩) := by decide
theorem test_T6 : (⟨1025#32, 0#32⟩ : SubTimer).tickInc 1024#32 = (false, ⟨1025#32, 1024#32⟩) := by decide
theorem test_O1 : [0, 63, 64, 127, 128, 191, 192, 255].map (fun p => (triangle (.ofNat 8 p)).toNat) =
    [127, 1, 0, 126, 128, 254, 255, 129] := by decide
theorem test_O2 : square 127#8 127#8 = 255#8 ∧ square 128#8 127#8 = 0#8 := by decide
theorem test_O5 : sawtooth 128#8 = 255#8 ∧ sawtooth 129#8 = 0#8 := by decide
theorem test_O9 : noiseNext 1#32 = 0x00042021#32 ∧ noiseNext 0x04080601#32 = 0x9DCCA8C5#32 ∧
    noiseByte 0x9DCCA8C5#32 = 197#8 := by decide
theorem test_O10 : noiseNext 0xDEADBEEF#32 = 0x477D20B7#32 := by decide
theorem test_EnvCompare : envCompare 256#16 255 = 1029#32 ∧ envCompare 7999#16 200 = 40955#32 ∧
    envCompare 0xFFFF#16 1 = 67107840#32 ∧ envCompare 500#16 0 = 0#32 := by decide
theorem test_MsToTicks : msToTicks 16000 334#16 = 7999#16 ∧ msToTicks 1000 1#16 = 0#16 ∧
    msToTicks 44100 10#16 = 440#16 ∧ msToTicks 16000 1000#16 = 15999#16 := by decide
theorem test_Scale : [(0, 255), (1, 1), (255, 1), (2, 127), (2, 128), (200, 100), (255, 255)].map
    (fun x => (scalePlain (.ofNat 8 x.1) (.ofNat 8 x.2)).toNat) = [0, 1, 1, 1, 2, 79, 255] := by decide
theorem test_Remap : Remap.floor.apply 1 128 = 256 ∧ Remap.floor.apply 2 (-253) = 0 ∧
    Remap.floor.apply 6 (-1) = 127 ∧ Remap.floor.apply 6 761 = 254 ∧
    Remap.floor.apply 16 (-2032) = 0 := by decide

/-- M5: DC at duty 200 beside a silent voice. -/
theorem test_M5 : see (fun t => (t.outputs, t.tickPhase)) (step { k0 [] with
      voices := [{ silent with waveform := 6#8, duty := 200#8, volume := 255#8 }, silent]
      globalVolume := 255#8
      tickPhase := .synth }) = some ([.sample 100#8], .idle) := by decide

/-- M9, first step: two Noise voices draw consecutive values of one generator. -/
theorem test_M9 : see (fun t => (t.outputs, t.noise)) (step { k0 [] with
      voices := List.replicate 2 { silent with waveform := 5#8, volume := 255#8 }
      globalVolume := 255#8
      tickPhase := .synth }) = some ([.sample 17#8], 0x04080601#32) := by decide

/-- The sample is taken before the phase advances (70_reset_and_hazards.md R281): O5's ramp, O12's advance. -/
theorem test_sample_before_advance :
    see (fun t => (t.outputs, t.voices.map (·.phase))) (step { k0 [] with
      voices := [{ silent with waveform := 4#8, phase := 250#8, tuningWord := 10#8, volume := 255#8 }]
      globalVolume := 255#8
      tickPhase := .synth }) = some ([.sample 121#8], [4#8]) := by decide

/-- O8: the sine table at the phase. -/
theorem test_O8 : oscSample (k0 []).params 1#32 { silent with waveform := 1#8, phase := 9#8 } =
    some (9#8, 1#32) := by
  simp [oscSample, WaveMap.waveform, Waveform.all, WaveMap.code, WaveMap.enumerationOrder, k0, silent,
    Voice.atReset, Vector.get]
  rfl

/-- O15: a reserved code has no sample. -/
theorem test_O15 : step { k0 [] with voices := [{ silent with waveform := 7#8 }], tickPhase := .synth } =
    .refused (.reservedWaveform 7#8) := by rfl

/-! ### Witnesses: for every statement with hypotheses, values that meet them -/

theorem witness_DecodeOfEncodeIsTheCommand :
    OpcodeMap.tableOrder.Bijective ∧ swappedOpcodes.Bijective := by decide

theorem witness_DecodedBytesAreTheEncoding : OpcodeMap.tableOrder.Bijective ∧
    decode .tableOrder [0x31#8, 0xC8#8, 0x00#8] = .ok (.setVolume 1#4 200#8, [0x00#8]) :=
  ⟨by decide, rfl⟩

/-- Both clauses at their boundary: one byte short, exactly enough. -/
theorem witness_DecodeRejectsOnlyMissingBytes :
    [0x00#8].length + 1 < (OpcodeMap.tableOrder.command (cmdField 0x10#8)).format.length ∧
    (OpcodeMap.tableOrder.command (cmdField 0x10#8)).format.length ≤ [0x00#8, 0xC8#8].length + 1 := by decide

theorem witness_StepRunsTheDecodedCommand :
    (k0 [0x31#8, 0xC8#8]).tickPhase = .burst ∧
    (∃ rest, decode .tableOrder (k0 [0x31#8, 0xC8#8]).window = .ok (.setVolume 1#4 200#8, rest)) ∧
    ∃ t, exec (.setVolume 1#4 200#8) (k0 [0x31#8, 0xC8#8]).takeCall = .next t :=
  ⟨rfl, ⟨[], rfl⟩, ⟨_, rfl⟩⟩

theorem witness_FetchReadsTheBytesAtTheCursor :
    (k0 [0x31#8, 0xC8#8]).params.opcodeMap.Bijective ∧
    (k0 [0x31#8, 0xC8#8]).fetchInstr = .ok (.setVolume 1#4 200#8) := ⟨by decide, rfl⟩

/-- A fault at the opcode byte and one at the third byte. -/
theorem witness_StepFaultsOnlyOnStreamOverrun :
    step (k0 []) = .fault (.streamOverrun 0#16) ∧
    step (k0 [0xC0#8, 0x12#8]) = .fault (.streamOverrun 2#16) := ⟨rfl, rfl⟩

/-- Both bytes exist across the wrap at 65535; neither clause's other side: the second byte is missing. -/
theorem witness_WordReadIsBigEndian :
    ({ k0 [] with streamLen := 65536 } : State).memRead1 0xFFFF#16 = some 0#8 ∧
    ({ k0 [] with streamLen := 65536 } : State).memRead1 (0xFFFF#16 + 1#16) = some 0#8 ∧
    ({ k0 [] with streamLen := 65535 } : State).memRead1 0xFFFF#16 = none ∧
    ({ k0 [] with streamLen := 65535 } : State).memRead1 (0xFFFE#16 + 1#16) = none := by decide

theorem witness_PreparedWordRunsNext : State.reset.stream.wf = true := rfl

/-- The conversion's domain at its corners: 1 ms and 1000 ms, quotient 1 and quotient 65536. -/
theorem witness_SetTempoArmsTheTempoClock :
    (1 ≤ (1#16).toNat ∧ (1#16).toNat ≤ 1000 ∧ 1 ≤ 1000 / (1000 / (1#16).toNat) ∧
      1000 / (1000 / (1#16).toNat) ≤ 65536) ∧
    1 ≤ (1000#16).toNat ∧ (1000#16).toNat ≤ 1000 ∧ 1 ≤ 65536 / (1000 / (1000#16).toNat) ∧
      65536 / (1000 / (1000#16).toNat) ≤ 65536 := by decide

theorem witness_SyncOscillatorCopiesThePhase :
    ((k0 []).voices[(0xF1#8).toNat % 16]?).isSome ∧ (k0 []).numVoices ≤ (0x02#8).toNat % 16 := by decide

/-- Voice 0 is bypassed, voice 1 selects a preset that exists. -/
theorem witness_NoteOnTunesAndRestartsTheEnvelope :
    ((k0 []).voices[0]?).map (·.env.type) = some 0#5 ∧
    ((k0 []).voices[1]?).map (·.env.type) = some 1#5 ∧ ((k0 []).presets[1 - 1]?).isSome := by decide

/-- A bypassed voice, one in Sustain with its preset, and one that has ended. -/
theorem witness_NoteOffStopsOrReleases :
    ((k0 []).voices[0]?).map (·.env.type) = some 0#5 ∧
    ((k0 []).voices[1]?).map (fun v => (v.env.type, v.env.ended)) = some (1#5, false) ∧
    ((k0 []).presets[1 - 1]?).isSome ∧
    (({ k0 [] with voices := [{ silent with env := ⟨1#5, .release, true, 0#8, ⟨0#32, 0#32⟩⟩ }] }
      : State).voices[0]?).map (fun v => (v.env.type, v.env.ended)) = some (1#5, true) := by decide

/-- P itself is in range, P + 1 is not; a preset that exists, and index 0. -/
theorem witness_SetADSRAssignsThePresetAndEnds :
    (k0 []).numPresets ≤ 16 ∧ (k0 []).numPresets < (3#8).toNat ∧ (2#8).toNat ≤ (k0 []).numPresets ∧
    2#8 ≠ 0#8 ∧ ((k0 []).presets[(2#8).toNat - 1]?).isSome ∧ ((k0 []).voices[1]?).isSome := by decide

theorem witness_DirectExecMakesItsCommandsOutstanding :
    see (·.direct) (exec (.directExec 0#4 255#8) { k0 [] with direct := [3] }) = some [255, 3] ∧
    see (·.direct) (exec (.directExec 0#4 0#8) { k0 [] with direct := [3] }) = some [3] := by decide

/-- Voice 1 selects preset 1 (index 0), and no voice the command addresses selects preset 2. -/
theorem witness_SetADSRValuesRewritesTheSelectedPreset :
    ((k0 []).voices[(1#4).toNat]?).map (·.env.type.toNat) = some (0 + 1) ∧ 0 < (k0 []).numPresets ∧
    ∀ v, (k0 []).voices[(1#4).toNat]? = some v → v.env.type.toNat ≠ 1 + 1 := by
  refine ⟨by decide, by decide, fun v h => ?_⟩
  cases h
  decide

theorem witness_GlobalCommandsIgnoreTheChannel :
    (Instr.setGlobalVolume 0#4 128#8).command = (Instr.setGlobalVolume 15#4 128#8).command ∧
    (Instr.setGlobalVolume 0#4 128#8).command.addressesVoice = false ∧
    operandBytes (.setGlobalVolume 0#4 128#8) = operandBytes (.setGlobalVolume 15#4 128#8) := by decide

theorem witness_VoiceCommandsBeyondNAreNoOps :
    (Instr.noteOn 2#4 60#8).command.addressesVoice = true ∧
    (k0 []).numVoices ≤ (Instr.noteOn 2#4 60#8).channel.toNat ∧
    (k0 []).numVoices ≤ (0x12#8).toNat % 16 := by decide

theorem witness_CommandsMoveTheCursorByTheirLength :
    (∃ t, exec (.noteOff 1#4) (k0 []) = .next t) ∧ ∃ t, exec (.jumpInFile 0#4 7#16) (k0 []) = .next t :=
  ⟨⟨_, rfl⟩, ⟨_, rfl⟩⟩

/-- A command and a synthesis under another map; the byte at the cursor is SetVolume's under both. -/
theorem witness_AnotherOpcodeMapKeepsEveryMeaning :
    (∃ t, exec (.setVolume 1#4 200#8) (k0 []) = .next t) ∧
    (∃ t, step (k0 [0x31#8, 0xC8#8]) = .next t) ∧
    ((k0 [0x31#8, 0xC8#8]).withOpcodeMap swappedOpcodes).fetchInstr = (k0 [0x31#8, 0xC8#8]).fetchInstr ∧
    ∃ t, step { k0 [] with tickPhase := .synth } = .next t :=
  ⟨⟨_, rfl⟩, ⟨_, rfl⟩, rfl, ⟨_, rfl⟩⟩

theorem witness_StepsNeverWriteStreamOrParameters : ∃ t, step (k0 [0x00#8]) = .next t := ⟨_, rfl⟩

/-- A moment with a Reset, for a machine between ticks. -/
def resetNext (s : State) : State :=
  { s with tickPhase := .idle, slots := 0, inbox := [{ reset := true, event := none }] }

/-- The flag is set by one step and cleared by another. -/
theorem witness_HaltedIsSetByEndOfStreamClearedByReset :
    (k0 [0x70#8]).halted = false ∧ see (·.halted) (step (k0 [0x70#8])) = some true ∧
    (resetNext { k0 [] with halted := true }).halted = true ∧
    see (·.halted) (step (resetNext { k0 [] with halted := true })) = some false := by decide

theorem witness_HaltedIgnoresSampleTicks :
    ({ k0 [] with tickPhase := .idle, halted := true } : State).tickPhase = .idle ∧
    ({ k0 [] with tickPhase := .idle, halted := true } : State).halted = true ∧
    ({ k0 [] with tickPhase := .idle, halted := true } : State).inbox = [] ∧
    see (·.inbox) (step { k0 [] with
      tickPhase := .idle, halted := true
      inbox := [{ reset := false, event := some .sampleTick }] }) = some [] := by decide

/-- A plain command, a jump, a wrap at a tempo firing, a Reset. -/
theorem witness_CursorChangesOnlyByFetchJumpWrapAndReset :
    see (·.cursor) (step (k0 [0x00#8])) = some 1#16 ∧
    see (·.cursor) (step (k0 [0xC0#8, 0x12#8, 0x34#8])) = some 0x1234#16 ∧
    see (·.cursor) (step { k0 [] with tickPhase := .idle, tempo := ⟨0#32, 0#32⟩, cursor := 3#16 }) =
      some 0#16 ∧
    see (·.cursor) (step (resetNext { k0 [] with cursor := 3#16 })) = some 0#16 := by decide

/-- Both ways to a new noise state. -/
theorem witness_NoiseChangesOnlyInSynthAndReset :
    see (·.noise) (step { k0 [] with
      voices := [{ silent with waveform := 5#8 }], tickPhase := .synth }) = some 0x00042021#32 ∧
    see (·.noise) (step (resetNext { k0 [] with noise := 2#32 })) = some 1#32 := by decide

/-- The three ways to a new preset table. -/
theorem witness_PresetsChangeOnlyByConfiguration :
    see (fun t => decide (t.presets = (k0 []).presets))
      (step (k0 [0xF1#8, 0x00#8, 0x01#8, 0x00#8, 0x0A#8, 0x64#8, 0x00#8, 0x64#8])) = some false ∧
    see (fun t => decide (t.presets = (k0 []).presets)) (step { k0 [] with
      tickPhase := .idle
      inbox := [{ reset := false, event := some (.hostOp (.envConfigure 2#8 1#16 1#16 1#8 1#16)) }] }) =
      some false ∧
    see (fun t => decide (t.presets = (k0 []).presets)) (step (resetNext (k0 []))) = some false := by decide

theorem witness_OutputsComeFromSynthAndEndOfStream :
    (∃ t, step { k0 [] with tickPhase := .synth } = .next t) ∧ (∃ t, step (k0 [0x70#8]) = .next t) ∧
    (k0 [0x70#8]).fetchInstr = .ok (.endOfStream 0#4) ∧
    ∃ t, step { k0 [] with tickPhase := .idle } = .next t :=
  ⟨⟨_, rfl⟩, ⟨_, rfl⟩, rfl, ⟨_, rfl⟩⟩

theorem witness_EveryStepKeepsLegal :
    (k0 [0xE0#8, 0x02#8]).Legal ∧ ∃ t, step (k0 [0xE0#8, 0x02#8]) = .next t :=
  ⟨by decide, _, rfl⟩

theorem witness_OnlyReservedWaveformsAreRefused :
    step { k0 [] with voices := [{ silent with waveform := 7#8 }], tickPhase := .synth } =
      .refused (.reservedWaveform 7#8) ∧
    ∃ v ∈ [{ silent with waveform := 7#8 }], v.waveform ∉ WaveMap.enumerationOrder.codes :=
  ⟨rfl, by decide⟩

/-- K0 between ticks with this count of the tempo clock and these moments to come. -/
def counting (counter : DWord) (inbox : List Moment) : State :=
  { k0 [] with tickPhase := .idle, slots := 0, tempo := ⟨5#32, counter⟩, inbox := inbox }

/-- A state whose tick fires at the boundary and one whose tick is the last that does not, with the SampleTick
listed and with nothing listed. -/
theorem witness_SampleTickBeginsWithTheTempoClock :
    (∀ c ∈ [3#32, 4#32], ∀ inbox ∈ [[], [{ reset := false, event := some Event.sampleTick }]],
      (counting c inbox).tickPhase = .idle ∧ (counting c inbox).inbox = inbox ∧
      (counting c inbox).halted = false ∧ 1 ≤ (counting c inbox).numVoices) ∧
    (counting 4#32 []).tempo.compare.toNat ≤ ((counting 4#32 []).tempo.counter + 1#32).toNat ∧
    ((counting 3#32 []).tempo.counter + 1#32).toNat < (counting 3#32 []).tempo.compare.toNat ∧
    see (·.tickPhase) (step (counting 4#32 [{ reset := false, event := some .sampleTick }])) = some .burst ∧
    see (·.tickPhase) (step (counting 3#32 [])) = some .synth :=
  ⟨fun _ _ _ _ => ⟨rfl, rfl, rfl, by show 1 ≤ 2; decide⟩, by decide, by decide, by decide, by decide⟩

/-- A default compare value of 0 and one of 5, at the last tick before the first burst. -/
theorem witness_TicksAfterResetEmitZeroUntilTheFirstBurst :
    (k0 []).inbox = [] ∧ 1 ≤ (k0 []).numVoices ∧ (k0 []).params.waveMap.Injective ∧ 4 < max 1 (k0 []).params.tempoDefaultCompare.toNat ∧
    4 + 1 = max 1 (k0 []).params.tempoDefaultCompare.toNat ∧ 0 + 1 = max 1 (0#32).toNat := by decide

/-- The largest compare value that an increment of 1 does not overflow, and the envelope's largest. -/
theorem witness_SubTimerFiresEveryKthCall :
    (⟨0xFFFFFFFF#32, 0#32⟩ : SubTimer).counter = 0#32 ∧ 1 ≤ (1#32).toNat ∧
    (0xFFFFFFFF#32).toNat + (1#32).toNat ≤ 2 ^ 32 ∧
    (0x80000000#32).toNat + (1024#32).toNat ≤ 2 ^ 32 := by decide

/-- A halting, a plain and a DirectExec command in a legal burst. -/
theorem witness_EachCommandUsesOneOutstandingCall :
    (k0 [0x70#8]).Legal ∧ (k0 [0x00#8]).Legal ∧ (k0 [0xE0#8, 0x02#8]).Legal ∧
    (k0 [0x70#8]).fetchInstr = .ok (.endOfStream 0#4) ∧ (k0 [0x00#8]).fetchInstr = .ok (.noAction 0#4) ∧
    (k0 [0xE0#8, 0x02#8]).fetchInstr = .ok (.directExec 0#4 2#8) ∧
    (∃ t, step (k0 [0x70#8]) = .next t) ∧ (∃ t, step (k0 [0x00#8]) = .next t) ∧
    ∃ t, step (k0 [0xE0#8, 0x02#8]) = .next t :=
  ⟨by decide, by decide, by decide, rfl, rfl, rfl, ⟨_, rfl⟩, ⟨_, rfl⟩, ⟨_, rfl⟩⟩

/-- K0 between ticks, with the tempo clock about to fire. -/
def beforeTick (bytes : List Byte) : State :=
  { k0 bytes with tickPhase := .idle, slots := 0, tempo := ⟨5#32, 4#32⟩ }

/-- K0 before a tick is between ticks, with nothing arriving. -/
theorem beforeTick_idle (bytes : List Byte) :
    (beforeTick bytes).tickPhase = .idle ∧ (beforeTick bytes).slots = 0 ∧ (beforeTick bytes).direct = [] ∧
      (beforeTick bytes).inbox = [] := ⟨rfl, rfl, rfl, rfl⟩

theorem witness_SampleTickIsARunOfSteps :
    (beforeTick [0xE0#8, 0x01#8, 0x31#8, 0xC8#8]).tickPhase = .idle ∧
    ∃ t, sampleTick 2 (beforeTick [0xE0#8, 0x01#8, 0x31#8, 0xC8#8]) = some (.next t) :=
  ⟨(beforeTick_idle _).1, _, rfl⟩

/-- DirectExec(2), whose commands are a jump back to it and then the DirectExec again. -/
def looping : State :=
  { beforeTick [0xE0#8, 0x02#8, 0xC0#8, 0x00#8, 0x00#8] with tempo := ⟨5#32, 0#32⟩ }

theorem fetchExecute_looping (fuel : Nat) : fetchExecute fuel looping = none := by
  have h0 : looping.fetchInstr = .ok (.directExec 0#4 2#8) := rfl
  have h1 : (looping.advance 2).fetchInstr = .ok (.jumpInFile 0#4 0#16) := rfl
  have h2 : exec (.jumpInFile 0#4 0#16) (looping.advance 2) = .next looping := rfl
  have h3 : repeatCount 2#8 = 2 := rfl
  have h4 : (looping.advance 2).halted = false := rfl
  have h5 : looping.halted = false := rfl
  induction fuel with
  | zero => rfl
  | succ fuel ih =>
    rw [fetchExecute]
    simp only [h0, h3, repeatCalls, h4, Bool.false_eq_true, if_false]
    cases fuel with
    | zero => rfl
    | succ fuel =>
      have h6 : fetchExecute (fuel + 1) (looping.advance 2) = some (.next (looping, false)) := by
        rw [fetchExecute]
        simp only [h1, h2]
        rfl
      simp only [h6, h5, ih, Bool.false_eq_true, if_false]

theorem witness_EndlessTickStaysInTheBurst :
    (beforeTick [0xE0#8, 0x02#8, 0xC0#8, 0x00#8, 0x00#8]).tickPhase = .idle ∧
    ∀ fuel, sampleTick fuel (beforeTick [0xE0#8, 0x02#8, 0xC0#8, 0x00#8, 0x00#8]) = none := by
  refine ⟨rfl, fun fuel => ?_⟩
  have h : tempoTick fuel (beforeTick [0xE0#8, 0x02#8, 0xC0#8, 0x00#8, 0x00#8]) =
      burstCalls (fetchExecute fuel) 2 looping := rfl
  have h0 : (beforeTick [0xE0#8, 0x02#8, 0xC0#8, 0x00#8, 0x00#8]).halted = false := rfl
  simp only [sampleTick, h0, h, burstCalls, fetchExecute_looping, Bool.false_eq_true, if_false]

/-- K0 with its synthesis due. -/
def synthNext : State := { k0 [] with tickPhase := .synth, slots := 0 }

theorem witness_SynthAdvancesEveryVoiceAndEmitsOnce :
    synthNext.tickPhase = .synth ∧ synthNext.params.waveMap.Injective ∧ synthNext.WaveformsDefined := by
  decide

theorem witness_EmittedSampleIsTheScaledSumOverVoices :
    synthNext.tickPhase = .synth ∧ synthNext.params.waveMap.Injective ∧ synthNext.WaveformsDefined := by
  decide

/-- The ends of the range for the fewest and the most voices. -/
theorem witness_ClampActsOnlyAtTheTopOfTheRange :
    (-(127 * ((1 : Nat) : Int)) ≤ -127 ∧ (-127 : Int) ≤ 128 * ((1 : Nat) : Int)) ∧
    -(127 * ((16 : Nat) : Int)) ≤ 2048 ∧ (2048 : Int) ≤ 128 * ((16 : Nat) : Int) := by decide

theorem witness_PlainScaleIsTheFixedPointProduct : (1#8 : Byte) ≠ 0#8 ∧ (255#8 : Byte) ≠ 0#8 := by decide

/-- Global volume 0, and every volume 0 with the global volume at its largest. -/
theorem witness_ZeroVolumesEmitZero :
    synthNext.tickPhase = .synth ∧ synthNext.params.waveMap.Injective ∧ synthNext.WaveformsDefined ∧
    synthNext.globalVolume = 0#8 ∧
    ({ synthNext with globalVolume := 255#8 } : State).params.remap = .floor ∧
    ∀ v ∈ ({ synthNext with globalVolume := 255#8 } : State).voices, v.volume = 0#8 := by decide

/-- Each waveform has a voice under the default map and under one with codes exchanged, and a reserved code
exists; the table entry of Sine exists. -/
theorem witness_OscSampleGivesEachWaveform :
    WaveMap.enumerationOrder.Injective ∧ swappedWaves.Injective ∧
    (∀ w ∈ Waveform.all, ({ silent with waveform := swappedWaves.code w } : Voice).waveform =
      swappedWaves.code w) ∧
    7#8 ∉ WaveMap.enumerationOrder.codes ∧
    ((k0 []).params.sineTable.toList[(255#8 : Byte).toNat]?).isSome :=
  ⟨by decide, by decide, by decide, by decide, by simp⟩

/-- The two intermediate words of the step from 1 (95_test_vectors.md O9). -/
theorem witness_NoiseStaysZeroOrNonzero :
    (0x2001 : Nat) = (1#32).toNat ^^^ ((1#32).toNat * 2 ^ 13 % 2 ^ 32) ∧
    (0x2001 : Nat) = 0x2001 ^^^ (0x2001 / 2 ^ 17) ∧
    (0x42021 : Nat) = 0x2001 ^^^ (0x2001 * 2 ^ 5 % 2 ^ 32) := by decide

theorem witness_TriangleTouchesItsApexesOnce :
    (62#8 : Byte) ≠ 255#8 ∧ (62#8 : Byte) ≠ 63#8 ∧ (62#8 : Byte) ≠ 191#8 := by decide

/-- The envelope of K0's voice 1, its preset, and the two ends of the attack. -/
theorem witness_AttackRisesOneStepEveryKCalls :
    (1#5 : BitVec 5) ≠ 0#5 ∧ (k0 []).presets[(1#5).toNat - 1]? = some ⟨159#16, 1599#16, 200#8, 7999#16⟩ ∧
    envPeriod (envCompare 159#16 255) = 1 ∧ envPeriod (envCompare 300#16 255) = 2 := by decide

/-- A sustain level below 255 and the level 255. -/
theorem witness_DecayFallsOneStepEveryKCalls :
    (k0 []).presets[(1#5).toNat - 1]? = some ⟨159#16, 1599#16, 200#8, 7999#16⟩ ∧
    envPeriod (envCompare 1599#16 55) = 30 ∧ (55 : Nat) * 30 ≠ 0 ∧
    envPeriod (envCompare 500#16 (255 - (255#8).toNat)) = 1 := by decide

/-- A sustain level above 0 and the level 0. -/
theorem witness_ReleaseFallsToZeroAndEnds :
    (k0 []).presets[(1#5).toNat - 1]? = some ⟨159#16, 1599#16, 200#8, 7999#16⟩ ∧
    (k0 []).presets[(2#5).toNat - 1]? = some Preset.zero ∧
    ((k0 []).voices[1]?).map (·.env.ended) = some false ∧
    envPeriod (envCompare 7999#16 200) = 40 := by decide

/-- One envelope for each clause. -/
theorem witness_SustainBypassAndEndedHold :
    ((k0 []).voices[1]?).map (fun v => (v.env.type, v.env.ended, v.env.state)) =
      some (1#5, false, .sustain) ∧
    Envelope.atReset.type = 0#5 ∧
    (⟨1#5, .release, true, 0#8, ⟨0#32, 0#32⟩⟩ : Envelope).ended = true := by decide

theorem witness_ResetEventLeavesTheResetTable :
    (resetNext (k0 [])).tickPhase = .idle ∧
    (resetNext (k0 [])).inbox = [{ reset := true, event := none }] := by decide

/-- A host operation waiting, and the one that SetADSRValues on voice 1 performs. -/
theorem witness_HostOperationsActAsTheCommands :
    hostOpOf (.setWave 1#4 3#8) = some (.setWave 1 3#8) ∧
    see (fun t => (t.voices.map (·.waveform), t.inbox)) (step { k0 [] with
      tickPhase := .idle
      inbox := [{ reset := false, event := some (.hostOp (.setWave 1 3#8)) }] }) = some ([0#8, 3#8], []) ∧
    ((k0 []).voices[(1#4).toNat]?).map (fun v => v.env.type.setWidth 8) = some 1#8 := by decide

/-- The indices 0, 1, P and P + 1 of EnvConfigure, and voices at N and above 15. -/
theorem witness_HostOperationsActAsTheCommands_boundaries :
    (k0 []).numPresets = 2 ∧ (k0 []).numPresets < (3#8).toNat ∧ 1 ≤ (1#8).toNat ∧
    (2#8).toNat ≤ (k0 []).numPresets ∧
    (∃ c ∈ (HostOp.setVolume 2 9#8).voices, (k0 []).numVoices ≤ c) ∧
    (∃ c ∈ (HostOp.syncOscillators 0 300).voices, (k0 []).numVoices ≤ c) ∧
    see (·.presets) (step { k0 [] with
      tickPhase := .idle
      inbox := [{ reset := false, event := some (.hostOp (.envConfigure 2#8 10#16 100#16 200#8 500#16)) }] }) =
      some [⟨159#16, 1599#16, 200#8, 7999#16⟩, ⟨159#16, 1599#16, 200#8, 7999#16⟩] := by decide

/-- 1 ms and 1000 ms at the ends of the rates that the second clause covers. -/
theorem witness_MsToTicksFollowsItsFormula :
    1 ≤ (1#16).toNat ∧ (1000#16).toNat ≤ 1000 ∧ 1 ≤ 1000 / (1000 / (1#16).toNat) ∧
    65536 / (1000 / (1000#16).toNat) ≤ 65536 := by decide

end Sys2Proof.Tests
end

section
/-! Proofs about the state: which steps change the halted flag, the noise state and the preset table, what a
Reset leaves, and the legal states as an invariant (10_state.md R29 to R38). -/

namespace Sys2Proof.Machine

/-! ### Commands as host operations -/

/-- A command that performs a host operation moves the cursor past its bytes and performs it
(60_exceptions.md R248). -/
theorem exec_of_hostOpOf {i : Instr} {op : HostOp} (h : hostOpOf i = some op) (s : State) :
    exec i s = .next ((s.advance i.length).applyHostOp op) := by
  cases i <;> cases h <;> rfl

theorem hostOpOf_ne_envConfigure (i : Instr) (k : Byte) (a d : Word) (l : Byte) (r : Word) :
    hostOpOf i ≠ some (.envConfigure k a d l r) := by
  cases i <;> exact nofun

/-- What a command makes of a state: a move past its bytes with a host operation, the configuration of the
preset that its voice selects, or one of the five effects that no host operation has. -/
inductive CommandEffect (s : State) : Instr → State → Prop where
  | hostOp {i : Instr} {op : HostOp} (h : hostOpOf i = some op) :
      CommandEffect s i ((s.advance i.length).applyHostOp op)
  | configure (ch : Nibble) (a d : Word) (l : Byte) (r : Word) :
      CommandEffect s (.setADSRValues ch a d l r) ((s.advance 8).envConfigure
        (((s.voices[ch.toNat]?).map fun v => v.env.type.toNat).getD 0) a d l r)
  | noAction (ch : Nibble) : CommandEffect s (.noAction ch) (s.advance 1)
  | setTempo (ch : Nibble) (w : Word) :
      CommandEffect s (.setTempo ch w)
        { s.advance 3 with tempo := ⟨(msToTicks s.params.sampleRate w).setWidth 32, 0#32⟩ }
  | endOfStream (ch : Nibble) : CommandEffect s (.endOfStream ch) (s.advance 1).halt
  | jumpInFile (ch : Nibble) (w : Word) : CommandEffect s (.jumpInFile ch w) { s with cursor := w }
  | directExec (ch : Nibble) (b : Byte) :
      CommandEffect s (.directExec ch b)
        { s.advance 2 with
          slots := 0
          direct := if b.toNat = 0 then s.direct else b.toNat :: s.direct }

/-- What a command that answers a next state did, said once for every invariant. -/
theorem exec_effect {i : Instr} {s t : State} (h : exec i s = .next t) : CommandEffect s i t := by
  cases hop : hostOpOf i with
  | some op =>
    rw [exec_of_hostOpOf hop] at h
    cases h
    exact .hostOp hop
  | none =>
    cases i with
    | setADSRValues ch a d l r =>
      rw [exec_setADSRValues] at h
      cases h
      exact .configure ch a d l r
    | noAction ch => cases h; exact .noAction ch
    | setTempo ch w => cases h; exact .setTempo ch w
    | endOfStream ch => cases h; exact .endOfStream ch
    | jumpInFile ch w => cases h; exact .jumpInFile ch w
    | directExec ch b => cases h; exact .directExec ch b
    | _ => cases hop

/-! ### What a host operation leaves alone -/

/-- The sequencer, the tick in progress and the outputs, which no host operation touches. -/
structure KeepsTick (s t : State) : Prop where
  tempo : t.tempo = s.tempo
  cursor : t.cursor = s.cursor
  halted : t.halted = s.halted
  tickPhase : t.tickPhase = s.tickPhase
  slots : t.slots = s.slots
  direct : t.direct = s.direct
  outputs : t.outputs = s.outputs

theorem KeepsTick.refl (s : State) : KeepsTick s s := ⟨rfl, rfl, rfl, rfl, rfl, rfl, rfl⟩

theorem KeepsTick.updateVoice (s : State) (c : Nat) (f : Voice → Voice) :
    KeepsTick s (s.updateVoice c f) := by
  rw [State.updateVoice_eq]
  exact ⟨rfl, rfl, rfl, rfl, rfl, rfl, rfl⟩

theorem KeepsTick.envConfigure (s : State) (k : Nat) (a d : Word) (l : Byte) (r : Word) :
    KeepsTick s (s.envConfigure k a d l r) := by
  obtain ⟨-, h⟩ | ⟨-, -, h⟩ := s.envConfigure_cases k a d l r <;> rw [h]
  · exact .refl s
  · exact ⟨rfl, rfl, rfl, rfl, rfl, rfl, rfl⟩

theorem KeepsTick.applyHostOp (s : State) (op : HostOp) : KeepsTick s (s.applyHostOp op) := by
  cases op with
  | mixerReset => exact ⟨rfl, rfl, rfl, rfl, rfl, rfl, rfl⟩
  | setGlobalVolume _ => exact ⟨rfl, rfl, rfl, rfl, rfl, rfl, rfl⟩
  | syncOscillators a b =>
    show KeepsTick s (s.syncOscillators a b)
    obtain ⟨-, h⟩ | ⟨_, -, h⟩ := s.syncOscillators_cases a b <;> rw [h]
    · exact .refl s
    · exact .updateVoice ..
  | setAdsr c k =>
    show KeepsTick s (s.setAdsr c k)
    obtain ⟨-, h⟩ | ⟨-, h⟩ := s.setAdsr_cases c k <;> rw [h]
    · exact .refl s
    · exact .updateVoice ..
  | envConfigure k a d l r => exact .envConfigure s k.toNat a d l r
  | _ => exact .updateVoice s _ _

/-- The preset table is written by `EnvConfigure` alone among the host operations (10_state.md R31). -/
theorem State.applyHostOp_presets {s : State} {op : HostOp}
    (h : ∀ k a d l r, op ≠ .envConfigure k a d l r) : (s.applyHostOp op).presets = s.presets := by
  cases op with
  | mixerReset => rfl
  | setGlobalVolume _ => rfl
  | syncOscillators a b =>
    show (s.syncOscillators a b).presets = s.presets
    obtain ⟨-, h⟩ | ⟨_, -, h⟩ := s.syncOscillators_cases a b <;> simp [h]
  | setAdsr c k =>
    show (s.setAdsr c k).presets = s.presets
    obtain ⟨-, h⟩ | ⟨-, h⟩ := s.setAdsr_cases c k <;> simp [h]
  | envConfigure k a d l r => exact absurd rfl (h k a d l r)
  | _ => exact s.updateVoice_presets _ _

/-! ### What changes the halted flag, the noise state and the preset table -/

/-- EndOfStream sets the halted flag and every other command keeps it (10_state.md R29). -/
theorem exec_halted {i : Instr} {s t : State} (h : exec i s = .next t) :
    t.halted = s.halted ∨ (t.halted = true ∧ ∃ ch, i = .endOfStream ch) := by
  cases exec_effect h with
  | @hostOp _ op _ => exact .inl (KeepsTick.applyHostOp _ op).halted
  | configure => exact .inl (State.envConfigure_halted ..)
  | endOfStream ch => exact .inr ⟨rfl, ch, rfl⟩
  | noAction | setTempo | jumpInFile | directExec => exact .inl rfl

/-- A command other than SetADSRValues keeps the preset table (10_state.md R31). -/
theorem exec_presets {i : Instr} {s t : State} (h : exec i s = .next t) :
    t.presets = s.presets ∨ ∃ ch a d l r, i = .setADSRValues ch a d l r := by
  cases exec_effect h with
  | hostOp hop =>
    refine .inl (State.applyHostOp_presets fun k a d l r he => ?_)
    exact hostOpOf_ne_envConfigure i k a d l r (he ▸ hop)
  | configure ch a d l r => exact .inr ⟨ch, a, d, l, r, rfl⟩
  | noAction | setTempo | endOfStream | jumpInFile | directExec => exact .inl rfl

/-- The beginning of a sample tick is the tempo clock's, the cursor's and the tick's own (43_mixer.md R170). -/
theorem State.beginTick_frame (s : State) :
    s.beginTick.halted = s.halted ∧ s.beginTick.noise = s.noise ∧ s.beginTick.presets = s.presets := by
  obtain ⟨-, h⟩ | ⟨-, -, h⟩ | ⟨-, -, h⟩ := s.beginTick_cases <;> rw [h] <;> exact ⟨rfl, rfl, rfl⟩

/-- A moment without a Reset keeps the halted flag, the noise state and, but for `EnvConfigure`, the preset
table; a Reset clears the flag. -/
theorem State.acceptMoment_frame (s : State) :
    (s.acceptMoment.halted = false ∧ ∃ m rest, s.inbox = m :: rest ∧ m.reset = true) ∨
    (s.acceptMoment.halted = s.halted ∧ s.acceptMoment.noise = s.noise ∧
      (s.acceptMoment.presets = s.presets ∨ ∃ m rest k a d l r,
        s.inbox = m :: rest ∧ m.event = some (.hostOp (.envConfigure k a d l r)))) := by
  obtain ⟨-, h⟩ | ⟨m, rest, hin, ⟨hr, h⟩ | ⟨-, -, h⟩ | ⟨-, op, hop, h⟩ | ⟨-, -, h⟩⟩ := s.acceptMoment_cases
  · obtain ⟨hh, hn, hp⟩ := s.beginTick_frame
    exact .inr (h ▸ ⟨hh, hn, .inl hp⟩)
  · exact .inl ⟨h ▸ rfl, m, rest, hin, hr⟩
  · obtain ⟨hh, hn, hp⟩ := ({ s with inbox := rest } : State).beginTick_frame
    exact .inr (h ▸ ⟨hh, hn, .inl hp⟩)
  · rw [h]
    refine .inr ⟨(KeepsTick.applyHostOp _ op).halted, (KeepsRun.applyHostOp _ op).noise, ?_⟩
    by_cases hc : ∃ k a d l r, op = .envConfigure k a d l r
    · obtain ⟨k, a, d, l, r, rfl⟩ := hc
      exact .inr ⟨m, rest, k, a, d, l, r, hin, hop⟩
    · exact .inl (State.applyHostOp_presets fun k a d l r he => hc ⟨k, a, d, l, r, he⟩)
  · exact .inr (h ▸ ⟨rfl, rfl, .inl rfl⟩)

/-- A synthesis writes neither the halted flag nor the preset table. -/
theorem synth_frame {s t : State} (h : s.synth = .next t) :
    t.halted = s.halted ∧ t.presets = s.presets := by
  obtain ⟨_, _, _, -, rfl⟩ := synth_cases h
  exact ⟨rfl, rfl⟩

/-- Settles O28: the kinds of step one by one; among the commands EndOfStream alone writes the flag. -/
theorem haltedIsSetByEndOfStreamClearedByReset : Obligations.HaltedIsSetByEndOfStreamClearedByReset := by
  intro s t h
  by_cases hk : t.halted = s.halted
  · simp +contextual [hk]
  obtain ⟨hp, rfl⟩ | ⟨hp, i, u, hf, he, rfl⟩ | ⟨-, hs⟩ := step_cases h
  · obtain ⟨hclear, hreset⟩ | ⟨hh, -⟩ := s.acceptMoment_frame
    · exact ⟨fun _ hset => absurd hset (by simp [hclear]), fun _ _ => ⟨hp, hreset⟩⟩
    · exact absurd hh hk
  · obtain hh | ⟨hset, ch, rfl⟩ := exec_halted he
    · exact absurd (by simpa using hh) hk
    · exact ⟨fun _ _ => ⟨hp, ch, hf⟩, fun _ hclear => absurd hclear (by simp [hset])⟩
  · exact absurd (synth_frame hs).1 hk

/-- Settles O31: outside a synthesis only a Reset writes the noise state. -/
theorem noiseChangesOnlyInSynthAndReset : Obligations.NoiseChangesOnlyInSynthAndReset := by
  intro s t h hne
  obtain ⟨hp, rfl⟩ | ⟨-, i, u, -, he, rfl⟩ | ⟨hp, -⟩ := step_cases h
  · obtain ⟨-, hreset⟩ | ⟨-, hn, -⟩ := s.acceptMoment_frame
    · exact .inr ⟨hp, hreset⟩
    · exact absurd hn hne
  · exact absurd (by simpa using (KeepsRun.exec he).noise) hne
  · exact .inl hp

/-- Settles O32: of the commands and the host operations only the two that configure a preset write it. -/
theorem presetsChangeOnlyByConfiguration : Obligations.PresetsChangeOnlyByConfiguration := by
  intro s t h hne
  obtain ⟨hp, rfl⟩ | ⟨hp, i, u, hf, he, rfl⟩ | ⟨-, hs⟩ := step_cases h
  · obtain ⟨-, m, rest, hin, hr⟩ | ⟨-, -, hpre | ⟨m, rest, k, a, d, l, r, hin, hev⟩⟩ := s.acceptMoment_frame
    · exact .inr ⟨hp, m, rest, hin, .inl hr⟩
    · exact absurd hpre hne
    · exact .inr ⟨hp, m, rest, hin, .inr ⟨k, a, d, l, r, hev⟩⟩
  · obtain hpre | ⟨ch, a, d, l, r, rfl⟩ := exec_presets he
    · exact absurd (by simpa using hpre) hne
    · exact .inl ⟨hp, ch, a, d, l, r, hf⟩
  · exact absurd (synth_frame hs).2 hne

/-! ### The Reset event -/

theorem State.acceptMoment_reset {s : State} {event : Option Event} {rest : List Moment}
    (h : s.inbox = { reset := true, event := event } :: rest) :
    s.acceptMoment = { s with inbox := rest }.hardReset := by
  simp [State.acceptMoment, h, State.deliver]

/-- Settles O56: the moment's Reset wins, and `hardReset_eq` writes out the table; the tick phase is already
`idle`, where a Reset is taken. -/
theorem resetEventLeavesTheResetTable : Obligations.ResetEventLeavesTheResetTable := by
  intro s event rest hidle hin
  rw [step_idle hidle, State.acceptMoment_reset hin, State.hardReset_eq, ← hidle]
  rfl

/-! ### Legal timers and envelopes -/

/-- What the legal states say of an envelope's timer (10_state.md R38). -/
abbrev SubTimer.EnvLegal (t : SubTimer) : Prop :=
  t.compare.toNat ≤ 2 ^ 31 ∧ t.counter.toNat < 2 ^ 31 ∧ t.Armed

/-- A timer whose counter was just cleared is armed whatever its compare value. -/
theorem SubTimer.armed_cleared (compare : DWord) : SubTimer.Armed ⟨compare, 0#32⟩ := by
  by_cases h : compare = 0#32
  · exact .inl h
  · exact .inr (Nat.pos_of_ne_zero fun h0 => h (BitVec.eq_of_toNat_eq h0))

theorem SubTimer.envLegal_cleared {compare : DWord} (h : compare.toNat ≤ 2 ^ 31) :
    SubTimer.EnvLegal ⟨compare, 0#32⟩ :=
  ⟨h, (by decide : (0#32 : DWord).toNat < 2 ^ 31), armed_cleared compare⟩

/-- A timer call keeps an envelope's timer legal: it clears the counter or leaves it below the compare value
(40_subtimer.md R105). -/
theorem SubTimer.EnvLegal.tickInc {t : SubTimer} (h : t.EnvLegal) (step : DWord) :
    (t.tickInc step).2.EnvLegal := by
  obtain ⟨hc, -, -⟩ := h
  obtain ⟨-, ht⟩ | ⟨hlt, ht⟩ := t.tickInc_cases step <;> rw [ht]
  · exact envLegal_cleared hc
  · exact ⟨hc, Nat.lt_of_lt_of_le hlt hc, .inr hlt⟩

section
variable {n : Nat} {presets : List Preset} {e : Envelope}

theorem Envelope.Legal.envReset (h : e.Legal n) (target : EnvState) :
    (envReset presets e target).Legal n := by
  obtain ⟨-, -, he⟩ | ⟨-, he⟩ := envReset_cases presets e target <;> rw [he]
  · exact h
  · obtain ⟨htype, -⟩ := h
    exact ⟨htype, SubTimer.envLegal_cleared (envEntry_compare_le _ target)⟩

/-- A firing enters a phase or writes the value alone (42_envelope.md R140 to R142). -/
theorem Envelope.Legal.envFire (h : e.Legal n) : (envFire presets e).Legal n := by
  unfold Sys2Proof.Machine.envFire
  cases e.state with
  | attack => dsimp only; split; exacts [h.envReset .decay, h]
  | decay => dsimp only; split; exacts [h.envReset .sustain, h]
  | sustain => exact h
  | release => dsimp only; split <;> exact h

theorem Envelope.Legal.envSample (h : e.Legal n) : (envSample presets e).2.Legal n := by
  have ⟨htype, htimer⟩ := h
  have hticked : ({ e with timer := (e.timer.tickInc 1024#32).2 } : Envelope).Legal n :=
    ⟨htype, SubTimer.EnvLegal.tickInc htimer 1024#32⟩
  unfold Sys2Proof.Machine.envSample
  split
  · exact h
  · split
    · exact h
    · dsimp only
      split
      · exact hticked.envFire
      · exact hticked

end

/-! ### Legal voices -/

/-- Every voice's envelope is legal, the third part of `State.Legal`. -/
abbrev State.EnvelopesLegal (s : State) : Prop := ∀ v ∈ s.voices, v.env.Legal s.numPresets

theorem Voice.atReset_env_legal (m : WaveMap) (n : Nat) : (Voice.atReset m).env.Legal n :=
  ⟨Nat.zero_le n, SubTimer.envLegal_cleared (by decide)⟩

theorem noteOffVoice_env_legal {n : Nat} {v : Voice} (presets : List Preset) (h : v.env.Legal n) :
    (noteOffVoice presets v).env.Legal n := by
  unfold noteOffVoice
  split
  · exact h
  · exact h.envReset .release

theorem setAdsrVoice_env_legal {n : Nat} {k : Byte} {v : Voice} (presets : List Preset)
    (hk : k.toNat ≤ n) (h : v.env.Legal n) : (setAdsrVoice presets k v).env.Legal n := by
  obtain ⟨-, htimer⟩ := h
  have hselected : ({ v.env with type := k.setWidth 5 } : Envelope).Legal n :=
    ⟨by rw [BitVec.toNat_setWidth]; exact (Nat.mod_le _ _).trans hk, htimer⟩
  exact hselected.envReset .attack

theorem State.EnvelopesLegal.updateVoice {s : State} (h : s.EnvelopesLegal) (c : Nat) {f : Voice → Voice}
    (hf : ∀ v, v.env.Legal s.numPresets → (f v).env.Legal s.numPresets) :
    (s.updateVoice c f).EnvelopesLegal := by
  intro v hv
  rw [(KeepsRun.updateVoice s c f).numPresets]
  obtain hv | ⟨u, hu, rfl⟩ := State.mem_updateVoice hv
  · exact h v hv
  · exact hf u (h u hu)

theorem State.EnvelopesLegal.envConfigure {s : State} (h : s.EnvelopesLegal) (k : Nat) (a d : Word)
    (l : Byte) (r : Word) : (s.envConfigure k a d l r).EnvelopesLegal := by
  intro v hv
  rw [(KeepsRun.envConfigure ..).numPresets]
  exact h v (State.envConfigure_voices .. ▸ hv)

theorem State.EnvelopesLegal.applyHostOp {s : State} (h : s.EnvelopesLegal) (op : HostOp) :
    (s.applyHostOp op).EnvelopesLegal := by
  cases op with
  | mixerReset =>
    show s.mixerReset.EnvelopesLegal
    intro v hv
    rw [State.mixerReset_voices] at hv
    exact List.eq_of_mem_replicate hv ▸ Voice.atReset_env_legal _ _
  | setGlobalVolume _ => exact h
  | noteOn c k => exact h.updateVoice c fun _ hv => hv.envReset .attack
  | noteOff c => exact h.updateVoice c fun _ hv => noteOffVoice_env_legal s.presets hv
  | syncOscillators a b =>
    show (s.syncOscillators a b).EnvelopesLegal
    obtain ⟨-, hs⟩ | ⟨_, -, hs⟩ := s.syncOscillators_cases a b <;> rw [hs]
    · exact h
    · exact h.updateVoice a fun _ hv => hv
  | setAdsr c k =>
    show (s.setAdsr c k).EnvelopesLegal
    obtain ⟨-, hs⟩ | ⟨hk, hs⟩ := s.setAdsr_cases c k <;> rw [hs]
    · exact h
    · exact h.updateVoice c fun _ hv => setAdsrVoice_env_legal s.presets hk hv
  | envConfigure k a d l r => exact h.envConfigure k.toNat a d l r
  | setWave c _ => exact h.updateVoice c fun _ hv => hv
  | setVolume c _ => exact h.updateVoice c fun _ hv => hv
  | setDuty c _ => exact h.updateVoice c fun _ hv => hv
  | resetOscillator c => exact h.updateVoice c fun _ hv => hv

/-- One pass over the voices advances each phase and calls each envelope once, whatever the samples are
(43_mixer.md R171). -/
theorem synthVoices_voices {p : Params} {presets : List Preset} {vs vs' : List Voice}
    {noise noise' : DWord} {acc : Int}
    (h : synthVoices p presets noise vs = .ok (acc, vs', noise')) :
    vs' = vs.map fun v => { oscAdvance v with env := (envSample presets v.env).2 } := by
  induction vs generalizing noise noise' acc vs' with
  | nil => cases h; rfl
  | cons v rest ih =>
    rw [synthVoices, synthVoice] at h
    cases ho : oscSample p noise v with
    | none => rw [ho] at h; cases h
    | some r =>
      obtain ⟨o, noise1⟩ := r
      rw [ho] at h
      cases hr : synthVoices p presets noise1 rest with
      | error r => simp [hr] at h
      | ok q =>
        obtain ⟨acc1, rest1, noise2⟩ := q
        simp only [hr, Except.ok.injEq, Prod.mk.injEq] at h
        obtain ⟨-, rfl, -⟩ := h
        rw [List.map_cons, ih hr]

/-! ### The parts of a legal state that no tick moves -/

/-- The legal states but for the book-keeping of the tick in progress (log 1). -/
abbrev State.DataLegal (s : State) : Prop := s.ConfigLegal ∧ s.tempo.Armed ∧ s.EnvelopesLegal

theorem State.legal_iff (s : State) : s.Legal ↔ s.DataLegal ∧ s.TickLegal :=
  ⟨fun ⟨hc, ht, he, hk⟩ => ⟨⟨hc, ht, he⟩, hk⟩, fun ⟨⟨hc, ht, he⟩, hk⟩ => ⟨hc, ht, he, hk⟩⟩

theorem State.ConfigLegal.congr {s t : State} (h : s.ConfigLegal) (hn : t.numVoices = s.numVoices)
    (hp : t.numPresets = s.numPresets) (hparams : t.params = s.params) (hstream : t.stream = s.stream)
    (hlen : t.streamLen = s.streamLen) : t.ConfigLegal := by
  unfold State.ConfigLegal
  rw [hn, hp, hparams, hstream, hlen]
  exact h

theorem State.ConfigLegal.of_keepsRun {s t : State} (h : s.ConfigLegal) (hk : KeepsRun s t) :
    t.ConfigLegal := h.congr hk.numVoices hk.numPresets hk.params hk.stream hk.streamLen

theorem State.DataLegal.applyHostOp {s : State} (h : s.DataLegal) (op : HostOp) :
    (s.applyHostOp op).DataLegal := by
  obtain ⟨hconfig, htempo, henv⟩ := h
  exact ⟨hconfig.of_keepsRun (.applyHostOp s op), (KeepsTick.applyHostOp s op).tempo ▸ htempo,
    henv.applyHostOp op⟩

theorem State.DataLegal.envConfigure {s : State} (h : s.DataLegal) (k : Nat) (a d : Word) (l : Byte)
    (r : Word) : (s.envConfigure k a d l r).DataLegal := by
  obtain ⟨hconfig, htempo, henv⟩ := h
  exact ⟨hconfig.of_keepsRun (.envConfigure s k a d l r),
    (KeepsTick.envConfigure s k a d l r).tempo ▸ htempo, henv.envConfigure k a d l r⟩

theorem State.DataLegal.exec {i : Instr} {s t : State} (h : s.DataLegal) (he : exec i s = .next t) :
    t.DataLegal := by
  have hmoved (n : Nat) : (s.advance n).DataLegal := h
  have ⟨hconfig, _, henv⟩ := h
  cases exec_effect he with
  | @hostOp _ op _ => exact (hmoved _).applyHostOp op
  | configure => exact (hmoved 8).envConfigure ..
  | setTempo => exact ⟨hconfig, SubTimer.armed_cleared _, henv⟩
  | noAction | endOfStream | jumpInFile | directExec => exact h

theorem State.DataLegal.synth {s t : State} (h : s.DataLegal) (hs : s.synth = .next t) : t.DataLegal := by
  obtain ⟨hconfig, htempo, henv⟩ := h
  obtain ⟨_, voices, _, hv, rfl⟩ := synth_cases hs
  have hvoices := synthVoices_voices hv
  refine ⟨hconfig.congr (by simp [State.numVoices, hvoices]) rfl rfl rfl rfl, htempo, ?_⟩
  intro v hmem
  obtain ⟨u, hu, rfl⟩ := List.mem_map.mp (hvoices ▸ hmem)
  exact (henv u hu).envSample

theorem State.DataLegal.beginTick {s : State} (h : s.DataLegal) : s.beginTick.DataLegal := by
  have ⟨hconfig, _, henv⟩ := h
  obtain ⟨-, hs⟩ | ⟨-, -, hs⟩ | ⟨-, hlt, hs⟩ := s.beginTick_cases <;> rw [hs]
  · exact h
  · exact ⟨hconfig, SubTimer.armed_cleared _, henv⟩
  · exact ⟨hconfig, .inr hlt, henv⟩

/-- A Reset needs the run's parameters legal and nothing of the rest (10_state.md R33). -/
theorem State.ConfigLegal.hardReset {s : State} (h : s.ConfigLegal) : s.hardReset.DataLegal := by
  have ⟨_, _, _, _, hpresets, _⟩ := h
  rw [State.hardReset_eq]
  refine ⟨h.congr (by simp [State.numVoices]) hpresets rfl rfl rfl, SubTimer.armed_cleared _, ?_⟩
  intro v hv
  rw [List.eq_of_mem_replicate hv]
  exact Voice.atReset_env_legal _ _

/-! ### The book-keeping of a tick -/

/-- What holds of the outstanding calls at every point of a burst, before and after a command too. -/
structure State.LoopsLegal (s : State) : Prop where
  slots_le : s.slots ≤ s.numVoices
  nested : s.direct ≠ [] → s.slots = 0
  counts : ∀ k ∈ s.direct, 1 ≤ k ∧ k ≤ 255

theorem State.TickLegal.loopsLegal {s : State} (h : s.TickLegal) : s.LoopsLegal := by
  obtain ⟨-, -, -, hslots, hnested, hcounts⟩ := h
  exact ⟨hslots, hnested, hcounts⟩

/-- Without an outstanding call and outside a burst there is nothing to keep but that a halted machine is
between ticks. -/
theorem State.tickLegal_of_no_calls {s : State} (hslots : s.slots = 0) (hdirect : s.direct = [])
    (hphase : s.tickPhase ≠ .burst) (hhalted : s.halted = true → s.tickPhase = .idle) : s.TickLegal :=
  ⟨fun h => absurd h hphase, fun _ => ⟨hslots, hdirect⟩, hhalted, hslots ▸ Nat.zero_le _, fun _ => hslots,
    by simp [hdirect]⟩

theorem State.LoopsLegal.takeCall {s : State} (h : s.LoopsLegal) : s.takeCall.LoopsLegal := by
  obtain ⟨hslots, hnested, hcounts⟩ := h
  unfold State.takeCall
  split
  next hd => exact ⟨(Nat.sub_le _ _).trans hslots, fun hne => absurd hd hne, hcounts⟩
  next k rest hd =>
    rw [hd] at hnested hcounts
    refine ⟨hslots, fun _ => hnested (List.cons_ne_nil k rest), fun j hj => ?_⟩
    dsimp only at hj
    split at hj
    · exact hcounts j (List.mem_cons_of_mem k hj)
    · obtain rfl | hj := List.mem_cons.mp hj
      · have := hcounts k List.mem_cons_self
        omega
      · exact hcounts j (List.mem_cons_of_mem k hj)

theorem State.LoopsLegal.congr {s t : State} (h : s.LoopsLegal) (hn : t.numVoices = s.numVoices)
    (hslots : t.slots = s.slots) (hdirect : t.direct = s.direct) : t.LoopsLegal :=
  ⟨by rw [hslots, hn]; exact h.slots_le, by rw [hslots, hdirect]; exact h.nested,
    by rw [hdirect]; exact h.counts⟩

/-- A command keeps the outstanding calls or, as DirectExec does, puts a count in front of them. -/
theorem State.LoopsLegal.exec {i : Instr} {s t : State} (h : s.LoopsLegal) (he : exec i s = .next t) :
    t.LoopsLegal := by
  have hn : t.numVoices = s.numVoices := (KeepsRun.exec he).numVoices
  cases exec_effect he with
  | @hostOp _ op _ =>
    have hk := KeepsTick.applyHostOp (s.advance i.length) op
    exact h.congr hn hk.slots hk.direct
  | configure => exact h.congr hn (by simp) (by simp)
  | directExec ch b =>
    refine ⟨Nat.zero_le _, fun _ => rfl, fun k hk => ?_⟩
    dsimp only at hk
    split at hk
    · exact h.counts k hk
    · obtain rfl | hk := List.mem_cons.mp hk
      · omega
      · exact h.counts k hk
  | noAction | setTempo | endOfStream | jumpInFile => exact h.congr hn rfl rfl

/-- The tick goes on from a command in the phase that its outstanding calls ask for. -/
theorem State.LoopsLegal.settle {s : State} (h : s.LoopsLegal) : s.settle.TickLegal := by
  obtain ⟨-, hs⟩ | ⟨hh, hslots, hdirect, hs⟩ | ⟨hh, hcalls, hs⟩ := s.settle_cases <;> rw [hs]
  · exact State.tickLegal_of_no_calls rfl rfl nofun fun _ => rfl
  · exact State.tickLegal_of_no_calls hslots hdirect nofun (by simp [hh])
  · refine ⟨fun _ => ?_, fun hne => absurd rfl hne, by simp [hh], h.slots_le, h.nested, h.counts⟩
    simpa [State.burstDone] using hcalls

/-! ### Legal states as an invariant -/

theorem State.Legal.no_calls {s : State} (h : s.Legal) (hphase : s.tickPhase ≠ .burst) :
    s.slots = 0 ∧ s.direct = [] := by
  obtain ⟨-, -, hcalls, -⟩ := s.legal_iff.mp h
  exact hcalls hphase

theorem State.Legal.beginTick {s : State} (h : s.Legal) (hidle : s.tickPhase = .idle) :
    s.beginTick.Legal := by
  obtain ⟨hslots, hdirect⟩ := h.no_calls (by simp [hidle])
  obtain ⟨hdata, htick⟩ := s.legal_iff.mp h
  refine (State.legal_iff _).mpr ⟨hdata.beginTick, ?_⟩
  obtain ⟨-, hs⟩ | ⟨hh, -, hs⟩ | ⟨hh, -, hs⟩ := s.beginTick_cases <;> rw [hs]
  · exact htick
  · by_cases hn : s.numVoices = 0
    · exact State.tickLegal_of_no_calls hn rfl (by simp [hn]) (by simp [hh])
    · refine ⟨fun _ => ?_, fun hne => absurd (if_neg hn) hne, by simp [hh], Nat.le_refl _, nofun, nofun⟩
      simp [State.burstDone, hn]
  · exact State.tickLegal_of_no_calls hslots hdirect nofun (by simp [hh])

theorem State.Legal.applyHostOp {s : State} (h : s.Legal) (hidle : s.tickPhase = .idle) (op : HostOp) :
    (s.applyHostOp op).Legal := by
  obtain ⟨hslots, hdirect⟩ := h.no_calls (by simp [hidle])
  obtain ⟨hdata, -⟩ := s.legal_iff.mp h
  have hk := KeepsTick.applyHostOp s op
  have hphase : (s.applyHostOp op).tickPhase = .idle := hk.tickPhase.trans hidle
  exact (State.legal_iff _).mpr ⟨hdata.applyHostOp op,
    State.tickLegal_of_no_calls (hk.slots.trans hslots) (hk.direct.trans hdirect) (by simp [hphase])
      fun _ => hphase⟩

theorem State.Legal.hardReset {s : State} (h : s.Legal) : s.hardReset.Legal := by
  obtain ⟨hconfig, -⟩ := h
  exact (State.legal_iff _).mpr ⟨State.ConfigLegal.hardReset hconfig,
    State.tickLegal_of_no_calls rfl rfl nofun fun _ => rfl⟩

theorem State.Legal.acceptMoment {s : State} (h : s.Legal) (hidle : s.tickPhase = .idle) :
    s.acceptMoment.Legal := by
  have hrest (rest : List Moment) : ({ s with inbox := rest } : State).Legal := h
  obtain ⟨-, hs⟩ | ⟨_, rest, -, ⟨-, hs⟩ | ⟨-, -, hs⟩ | ⟨-, op, -, hs⟩ | ⟨-, -, hs⟩⟩ :=
    s.acceptMoment_cases <;> rw [hs]
  · exact h.beginTick hidle
  · exact (hrest rest).hardReset
  · exact (hrest rest).beginTick hidle
  · exact (hrest rest).applyHostOp hidle op
  · exact hrest rest

/-- A command of a burst, from taking its call to the phase that follows it. -/
theorem State.Legal.exec_settle {i : Instr} {s u : State} (h : s.Legal)
    (he : exec i s.takeCall = .next u) : u.settle.Legal := by
  obtain ⟨hdata, htick⟩ := s.legal_iff.mp h
  have htaken : s.takeCall.DataLegal := by rw [State.takeCall_eq]; exact hdata
  have hu : u.DataLegal := htaken.exec he
  have hloops : u.LoopsLegal := htick.loopsLegal.takeCall.exec he
  refine (State.legal_iff _).mpr ⟨?_, hloops.settle⟩
  obtain ⟨-, hs⟩ | ⟨-, -, -, hs⟩ | ⟨-, -, hs⟩ := u.settle_cases <;> rw [hs] <;> exact hu

theorem State.Legal.synth {s t : State} (h : s.Legal) (hphase : s.tickPhase = .synth)
    (hs : s.synth = .next t) : t.Legal := by
  obtain ⟨hslots, hdirect⟩ := h.no_calls (by simp [hphase])
  obtain ⟨hdata, -⟩ := s.legal_iff.mp h
  refine (State.legal_iff _).mpr ⟨hdata.synth hs, ?_⟩
  obtain ⟨_, _, _, -, rfl⟩ := synth_cases hs
  exact State.tickLegal_of_no_calls hslots hdirect nofun fun _ => rfl

/-- Settles O34, by the three kinds of step. -/
theorem everyStepKeepsLegal : Obligations.EveryStepKeepsLegal := by
  intro s t h hstep
  obtain ⟨hp, rfl⟩ | ⟨-, i, u, -, he, rfl⟩ | ⟨hp, hs⟩ := step_cases hstep
  · exact h.acceptMoment hp
  · exact h.exec_settle he
  · exact h.synth hp hs

/-- Settles O35: the parameters are checked as they stand; every voice is at its reset values and no call is
outstanding. -/
theorem resetStateIsLegal : Obligations.ResetStateIsLegal := by
  refine ⟨by decide, SubTimer.armed_cleared _, fun v hv => ?_, ?_⟩
  · exact List.eq_of_mem_replicate hv ▸ Voice.atReset_env_legal _ _
  · exact State.tickLegal_of_no_calls rfl rfl nofun fun _ => rfl

end Sys2Proof.Machine
end

section
/-! Proofs about the stream memory: what a word read is, when a fetch overruns the stream, and that no step writes
the stream or a parameter (20_memory.md R62 to R68). -/

namespace Sys2Proof.Machine

/-! ### Word reads -/

/-- The high byte counts 256 (20_memory.md R63). -/
theorem wordOf_toNat (hi lo : Byte) : (wordOf hi lo).toNat = hi.toNat * 256 + lo.toNat := by
  rw [wordOf, BitVec.toNat_append, ← Nat.shiftLeft_add_eq_or_of_lt lo.isLt, Nat.shiftLeft_eq]

/-- A word read has a result exactly when both its bytes have one (20_memory.md R63, R68). -/
theorem State.memRead2_eq_some_iff (s : State) (a : Word) (w : Word) :
    s.memRead2 a = some w ↔
      ∃ hi lo, s.memRead1 a = some hi ∧ s.memRead1 (a + 1#16) = some lo ∧ w = wordOf hi lo := by
  unfold State.memRead2
  cases s.memRead1 a <;> cases s.memRead1 (a + 1#16) <;> simp [eq_comm]

/-- Settles O9: the word is assembled from the two bytes, and a word read has no result without both. -/
theorem wordReadIsBigEndian : Obligations.WordReadIsBigEndian := by
  intro s a
  refine ⟨fun hi lo hhi hlo => ?_, fun hmissing => ?_⟩
  · exact ⟨wordOf hi lo, (s.memRead2_eq_some_iff a _).mpr ⟨hi, lo, hhi, hlo, rfl⟩, wordOf_toNat hi lo⟩
  · refine Option.eq_none_iff_forall_ne_some.mpr fun w hw => ?_
    obtain ⟨hi, lo, hhi, hlo, -⟩ := (s.memRead2_eq_some_iff a w).mp hw
    simp [hhi, hlo] at hmissing

/-! ### The decoder rejects missing bytes -/

theorem takeNone_error_iff (i : Instr) (bytes : List Byte) :
    takeNone i bytes = .error .truncated ↔ bytes.length + 1 < Format.z.length := by
  simp [takeNone, Format.length]

theorem takeByte_error_iff (mk : Byte → Instr) (bytes : List Byte) :
    takeByte mk bytes = .error .truncated ↔ bytes.length + 1 < Format.b.length := by
  unfold takeByte
  split <;> simp [Format.length]

theorem takeWord_error_iff (mk : Word → Instr) (bytes : List Byte) :
    takeWord mk bytes = .error .truncated ↔ bytes.length + 1 < Format.w.length := by
  match bytes with
  | [] | [_] | _ :: _ :: _ => simp [takeWord, Format.length]

theorem takeWordWordByteWord_error_iff (mk : Word → Word → Byte → Word → Instr) (bytes : List Byte) :
    takeWordWordByteWord mk bytes = .error .truncated ↔ bytes.length + 1 < Format.a.length := by
  match bytes with
  | [] | [_] | [_, _] | [_, _, _] | [_, _, _, _] | [_, _, _, _, _] | [_, _, _, _, _, _]
  | _ :: _ :: _ :: _ :: _ :: _ :: _ :: _ => simp [takeWordWordByteWord, Format.length]

/-- The operands of a command are rejected exactly when its format asks for more bytes (30_encoding.md R93). -/
theorem decodeOperands_error_iff (cmd : Command) (ch : Nibble) (bytes : List Byte) :
    decodeOperands cmd ch bytes = .error .truncated ↔ bytes.length + 1 < cmd.format.length := by
  cases cmd with
  | noAction | noteOff | endOfStream | softwareReset | resetOscillator => exact takeNone_error_iff _ bytes
  | setWave | setVolume | setGlobalVolume | noteOn | syncOscillator | setADSR | setDuty | directExec =>
    exact takeByte_error_iff _ bytes
  | setTempo | jumpInFile => exact takeWord_error_iff _ bytes
  | setADSRValues => exact takeWordWordByteWord_error_iff _ bytes

/-- The decoder rejects exactly when the opcode byte is missing or its command is longer than the bytes
(30_encoding.md R92, R93). -/
theorem decode_error_iff (m : OpcodeMap) (bytes : List Byte) :
    decode m bytes = .error .truncated ↔
      bytes.length = 0 ∨
        ∃ op, bytes[0]? = some op ∧ bytes.length < (m.command (cmdField op)).format.length := by
  cases bytes with
  | nil => simp [decode]
  | cons op rest => simp [decode, decodeOperands_error_iff]

theorem Format.length_le (f : Format) : f.length ≤ 8 := by cases f <;> decide

/-! ### The window of readable bytes -/

/-- The window holds byte `k` exactly when it and every byte before it exist. -/
theorem State.lt_window_length_iff (s : State) (k : Nat) :
    k < s.window.length ↔ k < 8 ∧ ∀ j ≤ k, (s.cursor + BitVec.ofNat 16 j).toNat < s.streamLen := by
  simp only [← State.memRead1_isSome]
  rw [← not_le, ← List.getElem?_eq_none_iff, State.window_getElem?]
  split
  · next h => exact iff_of_true (Option.isSome_iff_ne_none.mp (h.2 k le_rfl)) h
  · next h => exact iff_of_false (fun hne => hne rfl) h

/-- The window is cut short at the first address that does not exist. -/
theorem State.window_length_eq_iff (s : State) {k : Nat} (hk : k < 8) :
    s.window.length = k ↔
      s.streamLen ≤ (s.cursor + BitVec.ofNat 16 k).toNat ∧
        ∀ j, j < k → (s.cursor + BitVec.ofNat 16 j).toNat < s.streamLen := by
  constructor
  · rintro rfl
    have hbefore : ∀ j, j < s.window.length → (s.cursor + BitVec.ofNat 16 j).toNat < s.streamLen :=
      fun j hj => ((s.lt_window_length_iff j).mp hj).2 j le_rfl
    refine ⟨Nat.le_of_not_lt fun hlast => ?_, hbefore⟩
    refine lt_irrefl _ ((s.lt_window_length_iff s.window.length).mpr ⟨hk, fun j hj => ?_⟩)
    obtain hj | rfl := Nat.lt_or_eq_of_le hj
    · exact hbefore j hj
    · exact hlast
  · rintro ⟨hmissing, hbefore⟩
    refine le_antisymm (Nat.le_of_not_lt fun hlong => ?_) (Nat.le_of_not_lt fun hshort => ?_)
    · exact absurd (((s.lt_window_length_iff k).mp hlong).2 k le_rfl) (Nat.not_lt.mpr hmissing)
    · exact lt_irrefl _ ((s.lt_window_length_iff s.window.length).mpr
        ⟨by omega, fun j hj => hbefore j (by omega)⟩)

/-- The first byte of the window is the byte at the cursor. -/
theorem State.window_getElem?_zero (s : State) : s.window[0]? = s.memRead1 s.cursor := by
  rw [State.window_getElem?]
  cases h : s.memRead1 s.cursor <;> simp [h]

/-! ### Overruns -/

/-- Address `cursor + k` is the first one missing among the bytes of the command at the cursor
(20_memory.md R68). -/
def State.FirstMissing (s : State) (k : Nat) : Prop :=
  s.streamLen ≤ (s.cursor + BitVec.ofNat 16 k).toNat ∧
    (∀ j, j < k → (s.cursor + BitVec.ofNat 16 j).toNat < s.streamLen) ∧
    (k = 0 ∨ ∃ op, s.memRead1 s.cursor = some op ∧
      k < (s.params.opcodeMap.command (cmdField op)).format.length)

/-- The first missing byte of the command is the one after a window that the decoder rejects. -/
theorem State.firstMissing_iff (s : State) (k : Nat) :
    s.FirstMissing k ↔
      decode s.params.opcodeMap s.window = .error .truncated ∧ s.window.length = k := by
  have hbound : (k = 0 ∨ ∃ op, s.memRead1 s.cursor = some op ∧
      k < (s.params.opcodeMap.command (cmdField op)).format.length) → k < 8 := by
    rintro (rfl | ⟨op, -, hk⟩)
    · decide
    · exact hk.trans_le (Format.length_le _)
  rw [decode_error_iff, s.window_getElem?_zero]
  constructor
  · rintro ⟨hmissing, hbefore, hcommand⟩
    have hlength := (s.window_length_eq_iff (hbound hcommand)).mpr ⟨hmissing, hbefore⟩
    exact ⟨hlength ▸ hcommand, hlength⟩
  · rintro ⟨hcommand, rfl⟩
    obtain ⟨hmissing, hbefore⟩ := (s.window_length_eq_iff (hbound hcommand)).mp rfl
    exact ⟨hmissing, hbefore, hcommand⟩

/-- A fetch fails exactly at the first missing byte of the command (20_memory.md R68, log 12). -/
theorem State.fetchInstr_error_iff_firstMissing (s : State) (r : Fault) :
    s.fetchInstr = .error r ↔
      ∃ k, r = .streamOverrun (s.cursor + BitVec.ofNat 16 k) ∧ s.FirstMissing k := by
  simp only [State.fetchInstr_error_iff, State.firstMissing_iff]
  constructor
  · rintro ⟨hreject, rfl⟩
    exact ⟨_, rfl, hreject, rfl⟩
  · rintro ⟨k, rfl, hreject, rfl⟩
    exact ⟨hreject, rfl⟩

/-! ### What faults -/

/-- No command faults or is refused (44_tracker.md R201, 30_encoding.md R92). -/
theorem exec_completes (i : Instr) (s : State) : ∃ t, exec i s = .next t := by
  cases i with
  | setADSRValues ch a d l r => exact ⟨_, exec_setADSRValues ch a d l r s⟩
  | _ => exact ⟨_, rfl⟩

/-- A synthesis completes or is refused (41_oscillator.md R119). -/
theorem State.synth_ne_fault (s : State) (r : Fault) : s.synth ≠ .fault r := by
  unfold State.synth
  split <;> exact nofun

/-- A step faults exactly when it is a burst step whose fetch fails. -/
theorem step_fault_iff (s : State) (r : Fault) :
    step s = .fault r ↔ s.tickPhase = .burst ∧ s.fetchInstr = .error r := by
  constructor
  · intro h
    cases hp : s.tickPhase with
    | idle => rw [step_idle hp] at h; cases h
    | synth => exact absurd (step_synth hp ▸ h) (s.synth_ne_fault r)
    | burst =>
      cases hf : s.fetchInstr with
      | error r' => rw [step_burst_error hp hf] at h; cases h; exact ⟨rfl, rfl⟩
      | ok i =>
        obtain ⟨t, ht⟩ := exec_completes i s.takeCall
        rw [step_burst hp hf, ht] at h
        cases h
  · rintro ⟨hp, hf⟩
    exact step_burst_error hp hf

/-- Settles O7: only a failing fetch of a burst step faults, and it fails at the first missing byte of the
command. -/
theorem stepFaultsOnlyOnStreamOverrun : Obligations.StepFaultsOnlyOnStreamOverrun := by
  intro s r
  rw [step_fault_iff, State.fetchInstr_error_iff_firstMissing]
  rfl

/-! ### What no step writes -/

/-- The parts of a run that are supplied from outside: the stream, its length and the parameters
(00_scope.md R8, 10_state.md R39). -/
structure KeepsSupplied (s t : State) : Prop where
  stream : t.stream = s.stream
  streamLen : t.streamLen = s.streamLen
  params : t.params = s.params

theorem KeepsRun.keepsSupplied {s t : State} (h : KeepsRun s t) : KeepsSupplied s t :=
  ⟨h.stream, h.streamLen, h.params⟩

theorem KeepsSupplied.keepsMemory {s t : State} (h : KeepsSupplied s t) : KeepsMemory s t :=
  State.memRead1_congr h.stream h.streamLen

theorem KeepsSupplied.beginTick (s : State) : KeepsSupplied s s.beginTick := by
  obtain ⟨-, h⟩ | ⟨-, -, h⟩ | ⟨-, -, h⟩ := s.beginTick_cases <;> rw [h] <;> exact ⟨rfl, rfl, rfl⟩

/-- A Reset writes the hardware's own state only (70_reset_and_hazards.md R270). -/
theorem KeepsSupplied.hardReset (s : State) : KeepsSupplied s s.hardReset := by
  rw [State.hardReset_eq]
  exact ⟨rfl, rfl, rfl⟩

theorem KeepsSupplied.acceptMoment (s : State) : KeepsSupplied s s.acceptMoment := by
  -- taking a moment off the inbox is outside what is compared
  have hrest {rest : List Moment} {t : State} (h : KeepsSupplied { s with inbox := rest } t) :
      KeepsSupplied s t := ⟨h.stream, h.streamLen, h.params⟩
  obtain ⟨-, h⟩ | ⟨_, _, -, ⟨-, h⟩ | ⟨-, -, h⟩ | ⟨-, _, -, h⟩ | ⟨-, -, h⟩⟩ := s.acceptMoment_cases <;> rw [h]
  · exact .beginTick s
  · exact hrest (.hardReset _)
  · exact hrest (.beginTick _)
  · exact hrest (KeepsRun.applyHostOp _ _).keepsSupplied
  · exact ⟨rfl, rfl, rfl⟩

/-- A command of a burst, from taking its call to the phase that follows it. -/
theorem KeepsSupplied.exec_settle {i : Instr} {s u : State} (h : exec i s.takeCall = .next u) :
    KeepsSupplied s u.settle := by
  have hexec := (KeepsRun.exec h).keepsSupplied
  exact ⟨by simpa using hexec.stream, by simpa using hexec.streamLen, by simpa using hexec.params⟩

/-- The hardware writes no memory, and the parameters of a run are fixed (20_memory.md R66, 10_state.md R39). -/
theorem KeepsSupplied.step {s t : State} (h : step s = .next t) : KeepsSupplied s t := by
  obtain ⟨-, rfl⟩ | ⟨-, _, _, -, he, rfl⟩ | ⟨-, hs⟩ := step_cases h
  · exact .acceptMoment s
  · exact .exec_settle he
  · obtain ⟨_, _, _, -, rfl⟩ := synth_cases hs
    exact ⟨rfl, rfl, rfl⟩

/-- Settles O27, by the three kinds of step; the bytes read are those of the stream. -/
theorem stepsNeverWriteStreamOrParameters : Obligations.StepsNeverWriteStreamOrParameters := by
  intro s t h
  have hkeep := KeepsSupplied.step h
  exact ⟨hkeep.stream, hkeep.streamLen, hkeep.params, hkeep.keepsMemory⟩

end Sys2Proof.Machine
end

section
/-! Proofs about the encoding: decoding and encoding are inverse under a legal OPCODE_MAP, the length is that of the
format, and what the channel selector and the map can change (30_encoding.md R80 to R94). -/

namespace Sys2Proof

/-! ### The fields of a byte and of a word -/

@[simp] theorem cmdField_append (cmd ch : Nibble) : cmdField (cmd ++ ch) = cmd :=
  BitVec.extractLsb'_append_eq_left

@[simp] theorem chField_append (cmd ch : Nibble) : chField (cmd ++ ch) = ch :=
  BitVec.extractLsb'_append_eq_right

@[simp] theorem cmdField_append_chField (op : Byte) : cmdField op ++ chField op = op :=
  (BitVec.extractLsb'_append_extractLsb'_eq_extractLsb' rfl).trans BitVec.extractLsb'_eq_self

@[simp] theorem wordOf_hiByte_loByte (w : Word) : wordOf (hiByte w) (loByte w) = w :=
  (BitVec.extractLsb'_append_extractLsb'_eq_extractLsb' rfl).trans BitVec.extractLsb'_eq_self

@[simp] theorem wordBytes_wordOf (hi lo : Byte) : wordBytes (wordOf hi lo) = [hi, lo] :=
  congrArg₂ (fun hi lo => [hi, lo]) BitVec.extractLsb'_append_eq_left BitVec.extractLsb'_append_eq_right

/-- The opcode byte of a command under a legal map is the byte whose fields name it (30_encoding.md R81, R83). -/
theorem eq_opcodeByte_iff {m : OpcodeMap} (h : m.Bijective) (op : Byte) (cmd : Command) (ch : Nibble) :
    op = opcodeByte m cmd ch ↔ cmd = m.command (cmdField op) ∧ ch = chField op := by
  constructor
  · rintro rfl
    simp [opcodeByte, m.command_number h]
  · rintro ⟨rfl, rfl⟩
    simp [opcodeByte, m.number_command h]

/-! ### The operands -/

theorem takeNone_ok_iff {i j : Instr} {bytes rest : List Byte} :
    takeNone i bytes = .ok (j, rest) ↔ j = i ∧ bytes = rest := by
  simp [takeNone, eq_comm]

theorem takeByte_ok_iff {mk : Byte → Instr} {i : Instr} {bytes rest : List Byte} :
    takeByte mk bytes = .ok (i, rest) ↔ ∃ b, i = mk b ∧ bytes = b :: rest := by
  cases bytes <;> simp [takeByte, eq_comm]

theorem takeWord_ok_iff {mk : Word → Instr} {i : Instr} {bytes rest : List Byte} :
    takeWord mk bytes = .ok (i, rest) ↔ ∃ w, i = mk w ∧ bytes = wordBytes w ++ rest := by
  constructor
  · intro h
    unfold takeWord at h
    split at h <;> cases h
    exact ⟨_, rfl, by simp⟩
  · rintro ⟨w, rfl, rfl⟩
    simp [takeWord, wordBytes]

theorem takeWordWordByteWord_ok_iff {mk : Word → Word → Byte → Word → Instr} {i : Instr}
    {bytes rest : List Byte} :
    takeWordWordByteWord mk bytes = .ok (i, rest) ↔
      ∃ a d s r, i = mk a d s r ∧ bytes = wordBytes a ++ wordBytes d ++ [s] ++ wordBytes r ++ rest := by
  constructor
  · intro h
    unfold takeWordWordByteWord at h
    split at h <;> cases h
    exact ⟨_, _, _, _, rfl, by simp⟩
  · rintro ⟨a, d, s, r, rfl, rfl⟩
    simp [takeWordWordByteWord, wordBytes]

/-- A command is read back from its operand bytes, whatever follows them (30_encoding.md R82). -/
theorem decodeOperands_operandBytes (i : Instr) (rest : List Byte) :
    decodeOperands i.command i.channel (operandBytes i ++ rest) = .ok (i, rest) := by
  cases i with
  | noAction | noteOff | endOfStream | softwareReset | resetOscillator => exact takeNone_ok_iff.mpr ⟨rfl, rfl⟩
  | setWave | setVolume | setGlobalVolume | noteOn | syncOscillator | setADSR | setDuty | directExec =>
    exact takeByte_ok_iff.mpr ⟨_, rfl, rfl⟩
  | setTempo | jumpInFile => exact takeWord_ok_iff.mpr ⟨_, rfl, rfl⟩
  | setADSRValues => exact takeWordWordByteWord_ok_iff.mpr ⟨_, _, _, _, rfl, rfl⟩

/-- What the operands of a command decode to: the command that has them as its operand bytes
(30_encoding.md R82). -/
theorem decodeOperands_ok_iff {cmd : Command} {ch : Nibble} {bytes rest : List Byte} {i : Instr} :
    decodeOperands cmd ch bytes = .ok (i, rest) ↔
      i.command = cmd ∧ i.channel = ch ∧ bytes = operandBytes i ++ rest := by
  constructor
  · intro h
    cases cmd with
    | noAction | noteOff | endOfStream | softwareReset | resetOscillator =>
      obtain ⟨rfl, rfl⟩ := takeNone_ok_iff.mp h
      exact ⟨rfl, rfl, rfl⟩
    | setWave | setVolume | setGlobalVolume | noteOn | syncOscillator | setADSR | setDuty | directExec =>
      obtain ⟨b, rfl, rfl⟩ := takeByte_ok_iff.mp h
      exact ⟨rfl, rfl, rfl⟩
    | setTempo | jumpInFile =>
      obtain ⟨w, rfl, rfl⟩ := takeWord_ok_iff.mp h
      exact ⟨rfl, rfl, rfl⟩
    | setADSRValues =>
      obtain ⟨a, d, s, r, rfl, rfl⟩ := takeWordWordByteWord_ok_iff.mp h
      exact ⟨rfl, rfl, rfl⟩
  · rintro ⟨rfl, rfl, rfl⟩
    exact decodeOperands_operandBytes i rest

/-- Operand bytes, with the opcode byte before them, have the length of the command's format
(30_encoding.md R80, R93). -/
theorem operandBytes_length (i : Instr) : (operandBytes i).length + 1 = i.length := by
  cases i <;> rfl

/-! ### Decoding and encoding -/

/-- Under a legal map the decoder inverts the encoder: the bytes of a command are its encoding and no others
(30_encoding.md R80 to R87). -/
theorem decode_ok_iff {m : OpcodeMap} (h : m.Bijective) {bytes rest : List Byte} {i : Instr} :
    decode m bytes = .ok (i, rest) ↔ bytes = encode m i ++ rest := by
  cases bytes with
  | nil => simp [decode, encode]
  | cons op operands =>
    rw [decode, decodeOperands_ok_iff, encode, List.cons_append, List.cons_eq_cons, eq_opcodeByte_iff h,
      and_assoc]

/-- Settles O1, by the operands of each command and the two fields of its opcode byte. -/
theorem decodeOfEncodeIsTheCommand : Obligations.DecodeOfEncodeIsTheCommand :=
  fun _ h _ _ => (decode_ok_iff h).mpr rfl

/-- Settles O2: the same equivalence, read from the decoder's side. -/
theorem decodedBytesAreTheEncoding : Obligations.DecodedBytesAreTheEncoding :=
  fun _ h _ _ _ hdecode => ((decode_ok_iff h).mp hdecode).symm

/-- A command whose bytes are all there decodes, and the bytes past its length are left over
(30_encoding.md R92, R93). -/
theorem decode_cons_of_le (m : OpcodeMap) (op : Byte) (bytes : List Byte)
    (hlen : (m.command (cmdField op)).format.length ≤ bytes.length + 1) :
    ∃ i, decode m (op :: bytes) = .ok (i, (op :: bytes).drop i.length) ∧
      i.command = m.command (cmdField op) ∧ i.channel = chField op := by
  have hne : decode m (op :: bytes) ≠ .error .truncated := fun h =>
    absurd hlen (Nat.not_le.mpr ((Machine.decodeOperands_error_iff _ _ _).mp h))
  cases h : decode m (op :: bytes) with
  | error e => cases e; exact absurd h hne
  | ok r =>
    obtain ⟨i, rest⟩ := r
    obtain ⟨hcmd, hch, rfl⟩ := decodeOperands_ok_iff.mp h
    refine ⟨i, ?_, hcmd, hch⟩
    rw [← operandBytes_length i, List.drop_succ_cons, List.drop_left]

/-- Settles O3: the default map is checked number by number; under every map the decoder rejects where the
operands are cut short, and otherwise leaves the bytes after the command. -/
theorem decodeRejectsOnlyMissingBytes : Obligations.DecodeRejectsOnlyMissingBytes :=
  ⟨by decide, fun m op rest =>
    ⟨(Machine.decodeOperands_error_iff _ _ _).mpr, decode_cons_of_le m op rest⟩⟩

/-- Settles O4: closed words, evaluated. -/
theorem writtenWordsDecode : Obligations.WrittenWordsDecode :=
  ⟨rfl, rfl, rfl, rfl, rfl, rfl, rfl⟩

/-! ### The channel selector -/

/-- The command with another channel selector in its opcode byte (30_encoding.md R81). -/
def Instr.withChannel (ch : Nibble) : Instr → Instr
  | .noAction _ => .noAction ch
  | .setTempo _ w => .setTempo ch w
  | .setWave _ b => .setWave ch b
  | .setVolume _ b => .setVolume ch b
  | .setGlobalVolume _ b => .setGlobalVolume ch b
  | .noteOn _ b => .noteOn ch b
  | .noteOff _ => .noteOff ch
  | .endOfStream _ => .endOfStream ch
  | .softwareReset _ => .softwareReset ch
  | .syncOscillator _ b => .syncOscillator ch b
  | .resetOscillator _ => .resetOscillator ch
  | .setADSR _ b => .setADSR ch b
  | .jumpInFile _ w => .jumpInFile ch w
  | .setDuty _ b => .setDuty ch b
  | .directExec _ b => .directExec ch b
  | .setADSRValues _ a d s r => .setADSRValues ch a d s r

@[simp] theorem Instr.withChannel_command (ch : Nibble) (i : Instr) :
    (i.withChannel ch).command = i.command := by cases i <;> rfl

@[simp] theorem Instr.withChannel_channel (ch : Nibble) (i : Instr) : (i.withChannel ch).channel = ch := by
  cases i <;> rfl

@[simp] theorem Instr.withChannel_operandBytes (ch : Nibble) (i : Instr) :
    operandBytes (i.withChannel ch) = operandBytes i := by cases i <;> rfl

/-- A command is determined by its number, its channel selector and its operand bytes: they are all that the
decoder reads (30_encoding.md R81, R82). -/
theorem Instr.ext_of_bytes {i j : Instr} (hcmd : i.command = j.command) (hch : i.channel = j.channel)
    (hbytes : operandBytes i = operandBytes j) : i = j := by
  have hi := decodeOperands_operandBytes i []
  rw [hcmd, hch, hbytes, decodeOperands_operandBytes j []] at hi
  cases hi
  rfl

/-- Commands with the same number and operand bytes differ in the channel selector at most. -/
theorem Instr.eq_withChannel {i j : Instr} (hcmd : i.command = j.command)
    (hbytes : operandBytes i = operandBytes j) : j = i.withChannel j.channel :=
  Instr.ext_of_bytes (by simp [hcmd]) (by simp) (by simp [hbytes])

end Sys2Proof

namespace Sys2Proof.Machine

/-- A command that addresses no voice means the same under every channel selector (30_encoding.md R91). -/
theorem exec_withChannel {i : Instr} (hglobal : i.command.addressesVoice = false) (ch : Nibble) (s : State) :
    exec (i.withChannel ch) s = exec i s := by
  cases i with
  | noAction | setTempo | setGlobalVolume | endOfStream | softwareReset | jumpInFile | directExec => rfl
  | _ => cases hglobal

/-- Settles O24: the two commands differ in the channel selector at most. -/
theorem globalCommandsIgnoreTheChannel : Obligations.GlobalCommandsIgnoreTheChannel := by
  intro i j s hcmd hglobal hbytes
  rw [Instr.eq_withChannel hcmd hbytes, exec_withChannel hglobal]

/-! ### Voices at or above N -/

/-- A host operation that names a voice at or above N does nothing (43_mixer.md R185). -/
theorem State.applyHostOp_beyond {s : State} {op : HostOp} {c : Nat} (hc : c ∈ op.voices)
    (hN : s.numVoices ≤ c) : s.applyHostOp op = s := by
  cases op with
  | mixerReset | setGlobalVolume | envConfigure => simp [HostOp.voices] at hc
  | syncOscillators a b =>
    show s.syncOscillators a b = s
    obtain ⟨-, h⟩ | ⟨source, hsource, h⟩ := s.syncOscillators_cases a b <;> rw [h]
    have hb : b < s.numVoices := (List.getElem?_eq_some_iff.mp hsource).1
    have ha : s.numVoices ≤ a := by
      obtain rfl | rfl : c = a ∨ c = b := by simpa [HostOp.voices] using hc
      · exact hN
      · omega
    exact s.updateVoice_beyond a _ ha
  | setAdsr c' k =>
    obtain rfl : c = c' := by simpa [HostOp.voices] using hc
    show s.setAdsr c k = s
    obtain ⟨-, h⟩ | ⟨-, h⟩ := s.setAdsr_cases c k <;> rw [h]
    exact s.updateVoice_beyond c _ hN
  | setWave c' | setVolume c' | setDuty c' | noteOn c' | noteOff c' | resetOscillator c' =>
    obtain rfl : c = c' := by simpa [HostOp.voices] using hc
    exact s.updateVoice_beyond c _ hN

/-- A command whose operation names a voice at or above N moves the cursor alone (30_encoding.md R90). -/
theorem exec_of_hostOpOf_beyond {i : Instr} {op : HostOp} {s : State} {c : Nat} (hop : hostOpOf i = some op)
    (hc : c ∈ op.voices) (hN : s.numVoices ≤ c) : exec i s = .next (s.advance i.length) := by
  rw [exec_of_hostOpOf hop, (s.advance i.length).applyHostOp_beyond hc hN]

/-- A command that addresses a voice performs an operation that names it, or configures the preset that the voice
selects (30_encoding.md R90). -/
theorem voiceCommand_cases {i : Instr} (hvoice : i.command.addressesVoice = true) :
    (∃ op, hostOpOf i = some op ∧ i.channel.toNat ∈ op.voices) ∨
    ∃ ch a d l r, i = .setADSRValues ch a d l r := by
  cases i with
  | setADSRValues ch a d l r => exact .inr ⟨ch, a, d, l, r, rfl⟩
  | setWave | setVolume | noteOn | noteOff | syncOscillator | resetOscillator | setADSR | setDuty =>
    exact .inl ⟨_, rfl, List.mem_cons_self⟩
  | _ => cases hvoice

theorem sourceIndex_eq (b : Byte) : sourceIndex b = b.toNat % 16 := by
  simp [sourceIndex, chField]

/-- Settles O25: the operation that the command performs names the missing voice; SetADSRValues finds no preset
to configure. -/
theorem voiceCommandsBeyondNAreNoOps : Obligations.VoiceCommandsBeyondNAreNoOps := by
  refine ⟨fun i s hvoice hN => ?_, fun ch b s hN => ?_⟩
  · obtain ⟨op, hop, hc⟩ | ⟨ch, a, d, l, r, rfl⟩ := voiceCommand_cases hvoice
    · exact exec_of_hostOpOf_beyond hop hc hN
    · have hmissing : s.voices[ch.toNat]? = none := List.getElem?_eq_none hN
      rw [exec_setADSRValues, hmissing]
      rfl
  · have hc : b.toNat % 16 ∈ (HostOp.syncOscillators ch.toNat (sourceIndex b)).voices := by
      simp [HostOp.voices, sourceIndex_eq]
    exact exec_of_hostOpOf_beyond (i := .syncOscillator ch b) rfl hc hN

/-! ### The prepared table word -/

theorem tableBytes_length (nbits w : Nat) : (tableBytes nbits w).length = 8 := rfl

/-- The eight bytes of a table word always hold a whole command (30_encoding.md R93). -/
theorem decode_tableBytes (nbits w : Nat) :
    ∃ i rest, decode .tableOrder (tableBytes nbits w) = .ok (i, rest) := by
  obtain ⟨i, h, -⟩ := decode_cons_of_le .tableOrder _ (tableBytes nbits w).tail (Format.length_le _)
  exact ⟨i, _, h⟩

/-- The prepared stream holds the eight bytes at the cursor, past the wrap at 65536 as well. -/
theorem State.withFetchWord_memRead1 (s : State) (nbits w : Nat) (hwf : s.stream.wf = true) {k : Nat}
    (hk : k < 8) :
    (s.withFetchWord nbits w).memRead1 (s.cursor + BitVec.ofNat 16 k) = (tableBytes nbits w)[k]? := by
  have hexists : (s.cursor + BitVec.ofNat 16 k).toNat < (s.withFetchWord nbits w).streamLen := by
    show _ < min 65536 (max s.streamLen (s.cursor.toNat + 8))
    simp only [BitVec.toNat_add, BitVec.toNat_ofNat]
    omega
  have hoffset : (s.cursor + BitVec.ofNat 16 k - s.cursor).toNat = k := by
    rw [add_sub_cancel_left, BitVec.toNat_ofNat]
    omega
  have hread := Memory.read_writeBytes (tableBytes nbits w) s.stream s.cursor
    (s.cursor + BitVec.ofNat 16 k) hwf le_rfl
  simp only [hoffset, tableBytes_length, hk, dif_pos] at hread
  rw [List.getElem?_eq_getElem hk]
  exact (State.memRead1_eq_some_iff ..).mpr ⟨hexists, hread⟩

/-- Eight bytes that all exist from the cursor on are the window. -/
theorem State.window_eq {s : State} {bytes : List Byte} (hlen : bytes.length = 8)
    (hread : ∀ k, k < 8 → s.memRead1 (s.cursor + BitVec.ofNat 16 k) = bytes[k]?) : s.window = bytes := by
  refine List.ext_getElem? fun k => ?_
  rw [State.window_getElem?]
  by_cases hk : k < 8
  · have hexists : ∀ j ≤ k, (s.memRead1 (s.cursor + BitVec.ofNat 16 j)).isSome := fun j hj => by
      have hj' : j < 8 := hj.trans_lt hk
      simp [hread j hj', hlen, hj']
    rw [if_pos ⟨hk, hexists⟩, hread k hk]
  · rw [if_neg fun h => hk h.1, List.getElem?_eq_none (by omega)]

/-- The window of the prepared state is the table word's eight bytes. -/
theorem State.withFetchWord_window (s : State) (nbits w : Nat) (hwf : s.stream.wf = true) :
    (s.withFetchWord nbits w).window = tableBytes nbits w :=
  State.window_eq (tableBytes_length nbits w) fun _ hk => s.withFetchWord_memRead1 nbits w hwf hk

/-- Settles O10: the prepared window is the table word's bytes, which hold a whole command. -/
theorem preparedWordRunsNext : Obligations.PreparedWordRunsNext := by
  intro s nbits w hwf
  obtain ⟨i, rest, hdecode⟩ := decode_tableBytes nbits w
  have hfetch : (s.withFetchWord nbits w).fetchInstr = .ok i :=
    (State.fetchInstr_ok_iff _ i).mpr ⟨rest, by rw [s.withFetchWord_window nbits w hwf]; exact hdecode⟩
  exact ⟨i, by rw [decodeTableWord, hdecode], step_burst rfl hfetch⟩

/-! ### Another OPCODE_MAP -/

section
variable (s : State) (m : OpcodeMap)

theorem State.withOpcodeMap_updateVoice (c : Nat) (f : Voice → Voice) :
    (s.withOpcodeMap m).updateVoice c f = (s.updateVoice c f).withOpcodeMap m := by
  unfold State.updateVoice State.withOpcodeMap
  dsimp only
  split <;> rfl

theorem State.withOpcodeMap_envConfigure (k : Nat) (a d : Word) (l : Byte) (r : Word) :
    (s.withOpcodeMap m).envConfigure k a d l r = (s.envConfigure k a d l r).withOpcodeMap m := by
  simp only [State.envConfigure, apply_ite (State.withOpcodeMap · m)]
  rfl

theorem State.withOpcodeMap_setAdsr (c : Nat) (k : Byte) :
    (s.withOpcodeMap m).setAdsr c k = (s.setAdsr c k).withOpcodeMap m := by
  unfold State.setAdsr
  rw [State.withOpcodeMap_updateVoice, apply_ite (State.withOpcodeMap · m)]
  rfl

theorem State.withOpcodeMap_syncOscillators (a b : Nat) :
    (s.withOpcodeMap m).syncOscillators a b = (s.syncOscillators a b).withOpcodeMap m := by
  have hvoices : (s.withOpcodeMap m).voices = s.voices := rfl
  unfold State.syncOscillators
  rw [hvoices]
  cases s.voices[b]? with
  | none => rfl
  | some source => exact s.withOpcodeMap_updateVoice m a _

/-- No host operation reads OPCODE_MAP (60_exceptions.md R248). -/
theorem State.withOpcodeMap_applyHostOp (op : HostOp) :
    (s.withOpcodeMap m).applyHostOp op = (s.applyHostOp op).withOpcodeMap m := by
  cases op with
  | mixerReset => rfl
  | setGlobalVolume => rfl
  | syncOscillators a b => exact s.withOpcodeMap_syncOscillators m a b
  | setAdsr c k => exact s.withOpcodeMap_setAdsr m c k
  | envConfigure k a d l r => exact s.withOpcodeMap_envConfigure m k.toNat a d l r
  | _ => exact s.withOpcodeMap_updateVoice m _ _

theorem State.withOpcodeMap_takeCall : (s.withOpcodeMap m).takeCall = s.takeCall.withOpcodeMap m := by
  unfold State.takeCall State.withOpcodeMap
  dsimp only
  split <;> rfl

theorem State.withOpcodeMap_settle : (s.withOpcodeMap m).settle = s.settle.withOpcodeMap m := by
  simp only [State.settle, apply_ite (State.withOpcodeMap · m)]
  rfl

theorem State.withOpcodeMap_beginTick : (s.withOpcodeMap m).beginTick = s.beginTick.withOpcodeMap m := by
  simp only [State.beginTick, apply_ite (State.withOpcodeMap · m), ← State.withOpcodeMap_settle]
  rfl

theorem State.withOpcodeMap_hardReset : (s.withOpcodeMap m).hardReset = s.hardReset.withOpcodeMap m := rfl

theorem State.withOpcodeMap_deliver (moment : Moment) :
    (s.withOpcodeMap m).deliver moment = (s.deliver moment).withOpcodeMap m := by
  obtain ⟨reset, event⟩ := moment
  cases reset with
  | true => exact s.withOpcodeMap_hardReset m
  | false =>
    match event with
    | none => rfl
    | some .sampleTick => exact s.withOpcodeMap_beginTick m
    | some (.hostOp op) => exact s.withOpcodeMap_applyHostOp m op

/-- What arrives between ticks reads no OPCODE_MAP. -/
theorem State.withOpcodeMap_acceptMoment :
    (s.withOpcodeMap m).acceptMoment = s.acceptMoment.withOpcodeMap m := by
  have hinbox : (s.withOpcodeMap m).inbox = s.inbox := rfl
  unfold State.acceptMoment
  rw [hinbox]
  cases s.inbox with
  | nil => exact s.withOpcodeMap_beginTick m
  | cons moment rest => exact ({ s with inbox := rest } : State).withOpcodeMap_deliver m moment

end

/-- Every command means the same under another map (30_encoding.md R83). -/
theorem exec_withOpcodeMap {i : Instr} {s t : State} (m : OpcodeMap) (h : exec i s = .next t) :
    exec i (s.withOpcodeMap m) = .next (t.withOpcodeMap m) := by
  cases exec_effect h with
  | hostOp hop => rw [exec_of_hostOpOf hop, ← State.withOpcodeMap_applyHostOp]; rfl
  | configure ch a d l r => rw [exec_setADSRValues, ← State.withOpcodeMap_envConfigure]; rfl
  | noAction | setTempo | endOfStream | jumpInFile | directExec => rfl

/-- The voices are sampled without OPCODE_MAP (43_mixer.md R171). -/
theorem synthVoices_withOpcodeMap (p : Params) (m : OpcodeMap) (presets : List Preset) (noise : DWord)
    (voices : List Voice) :
    synthVoices { p with opcodeMap := m } presets noise voices = synthVoices p presets noise voices := by
  have hvoice (noise : DWord) (v : Voice) :
      synthVoice { p with opcodeMap := m } presets noise v = synthVoice p presets noise v := rfl
  induction voices generalizing noise with
  | nil => rfl
  | cons v rest ih => simp only [synthVoices, hvoice, ih]

/-- A pass over the voices completes the synthesis. -/
theorem State.synth_of_pass {s : State} {acc : Int} {voices : List Voice} {noise : DWord}
    (h : synthVoices s.params s.presets s.noise s.voices = .ok (acc, voices, noise)) :
    s.synth = .next { s with
      voices := voices
      noise := noise
      tickPhase := .idle
      outputs := .sample (mixOutput s.params s.numVoices s.globalVolume acc) :: s.outputs } := by
  unfold State.synth
  rw [h]
  rfl

theorem synth_withOpcodeMap {s t : State} (m : OpcodeMap) (h : s.synth = .next t) :
    (s.withOpcodeMap m).synth = .next (t.withOpcodeMap m) := by
  obtain ⟨acc, voices, noise, hpass, rfl⟩ := synth_cases h
  exact State.synth_of_pass (s := s.withOpcodeMap m) ((synthVoices_withOpcodeMap ..).trans hpass)

/-- Settles O60, by the kinds of step; in a burst the command fetched is the same. -/
theorem anotherOpcodeMapKeepsEveryMeaning : Obligations.AnotherOpcodeMapKeepsEveryMeaning := by
  refine ⟨fun i s t m => exec_withOpcodeMap m, fun s t m hfetch h => ?_⟩
  obtain ⟨hp, rfl⟩ | ⟨hp, i, u, hf, he, rfl⟩ | ⟨hp, hs⟩ := step_cases h
  · rw [step_idle (s := s.withOpcodeMap m) hp, State.withOpcodeMap_acceptMoment]
  · rw [step_burst (s := s.withOpcodeMap m) hp ((hfetch hp).trans hf), State.withOpcodeMap_takeCall,
      exec_withOpcodeMap m he, settleOutcome, State.withOpcodeMap_settle]
  · rw [step_synth (s := s.withOpcodeMap m) hp, synth_withOpcodeMap m hs]

end Sys2Proof.Machine
end

section
/-! Proofs about the SubTimer: the count between two firings and the firing period (40_subtimer.md R101, R104,
R105). -/

namespace Sys2Proof.Machine

/-! ### The firing period -/

theorem firingPeriod_pos (compare step : Nat) : 0 < firingPeriod compare step :=
  Nat.lt_of_lt_of_le Nat.one_pos (Nat.le_max_left ..)

/-- The period is the least number of calls, at least one, whose increments reach the compare value
(40_subtimer.md R104). -/
theorem firingPeriod_le_iff {compare step calls : Nat} (hstep : 0 < step) (hcalls : 0 < calls) :
    firingPeriod compare step ≤ calls ↔ compare ≤ step * calls := by
  rw [firingPeriod, ← Nat.ceilDiv_eq_add_pred_div, max_le_iff, ceilDiv_le_iff_le_mul hstep]
  exact and_iff_right hcalls

/-- Fewer calls than the period keep a sum that one more increment does not overflow (40_subtimer.md R105). -/
theorem mul_succ_lt_of_lt_firingPeriod {compare step calls : Nat} (hstep : 0 < step) (hword : step < 2 ^ 32)
    (hfit : compare + step ≤ 2 ^ 32) (hcalls : calls < firingPeriod compare step) :
    step * calls + step < 2 ^ 32 := by
  rcases Nat.eq_zero_or_pos calls with rfl | hpos
  · simpa using hword
  · have hbelow : step * calls < compare :=
      Nat.lt_of_not_le fun h => hcalls.not_ge ((firingPeriod_le_iff hstep hpos).mpr h)
    omega

/-! ### A run of calls -/

section
variable {t : SubTimer} {inc : DWord}

/-- A call that follows `calls` silent ones fires if it completes the period, and else it is one more silent
call (40_subtimer.md R104). -/
theorem SubTimer.tickInc_after_silent {calls : Nat} (hinc : 1 ≤ inc.toNat)
    (hfit : t.compare.toNat + inc.toNat ≤ 2 ^ 32) (hcount : t.counter.toNat = inc.toNat * calls)
    (hcalls : calls < firingPeriod t.compare.toNat inc.toNat) :
    (calls + 1 = firingPeriod t.compare.toNat inc.toNat ∧
      t.tickInc inc = (true, { compare := t.compare, counter := 0#32 })) ∨
    (calls + 1 < firingPeriod t.compare.toNat inc.toNat ∧
      t.tickInc inc = (false, { compare := t.compare, counter := t.counter + inc }) ∧
      (t.counter + inc).toNat = inc.toNat * (calls + 1)) := by
  have hnowrap : t.counter.toNat + inc.toNat < 2 ^ 32 :=
    hcount ▸ mul_succ_lt_of_lt_firingPeriod hinc inc.isLt hfit hcalls
  have hsum : (t.counter + inc).toNat = inc.toNat * (calls + 1) := by
    rw [BitVec.toNat_add_of_lt hnowrap, hcount, Nat.mul_succ]
  have hreach := firingPeriod_le_iff (compare := t.compare.toNat) hinc calls.succ_pos
  obtain ⟨hle, hfired⟩ | ⟨hlt, hsilent⟩ := t.tickInc_cases inc
  · exact .inl ⟨le_antisymm hcalls (hreach.mpr (hsum ▸ hle)), hfired⟩
  · exact .inr ⟨Nat.lt_of_not_le fun h => (hsum ▸ hlt).not_ge (hreach.mp h), hsilent, hsum⟩

/-- Call `n + 1`, where the counter holds the increments since the last multiple of the period: it fires and
clears the counter exactly if the period divides `n + 1`. -/
theorem SubTimer.tickInc_at_call {n : Nat} (hinc : 1 ≤ inc.toNat)
    (hfit : t.compare.toNat + inc.toNat ≤ 2 ^ 32)
    (hcount : t.counter.toNat = inc.toNat * (n % firingPeriod t.compare.toNat inc.toNat)) :
    (firingPeriod t.compare.toNat inc.toNat ∣ n + 1 ∧
      t.tickInc inc = (true, { compare := t.compare, counter := 0#32 })) ∨
    (¬ firingPeriod t.compare.toNat inc.toNat ∣ n + 1 ∧
      t.tickInc inc = (false, { compare := t.compare, counter := t.counter + inc }) ∧
      (t.counter + inc).toNat = inc.toNat * ((n + 1) % firingPeriod t.compare.toNat inc.toNat)) := by
  have hmod := Nat.mod_lt n (firingPeriod_pos t.compare.toNat inc.toNat)
  rw [Nat.dvd_iff_mod_eq_zero, ← Nat.mod_add_mod]
  obtain ⟨hlast, hfired⟩ | ⟨hearly, hsilent, hsum⟩ := tickInc_after_silent hinc hfit hcount hmod
  · exact .inl ⟨by rw [hlast, Nat.mod_self], hfired⟩
  · rw [Nat.mod_eq_of_lt hearly]
    exact .inr ⟨Nat.succ_ne_zero _, hsilent, hsum⟩

@[simp] theorem SubTimer.run_compare (t : SubTimer) (inc : DWord) (n : Nat) :
    (SubTimer.run inc n t).compare = t.compare := by
  induction n with
  | zero => rfl
  | succ n ih => rw [SubTimer.run, SubTimer.tickInc_compare, ih]

/-- From counter 0 the counter holds the increments of the calls since the last multiple of the period. -/
theorem SubTimer.run_counter (hzero : t.counter = 0#32) (hinc : 1 ≤ inc.toNat)
    (hfit : t.compare.toNat + inc.toNat ≤ 2 ^ 32) (n : Nat) :
    (SubTimer.run inc n t).counter.toNat =
      inc.toNat * (n % firingPeriod t.compare.toNat inc.toNat) := by
  induction n with
  | zero => simp [SubTimer.run, hzero]
  | succ n ih =>
    obtain ⟨hdvd, hfired⟩ | ⟨-, hsilent, hsum⟩ :=
      tickInc_at_call (t := SubTimer.run inc n t) (n := n) hinc (by simpa using hfit) (by simpa using ih)
    · rw [run_compare] at hdvd
      rw [SubTimer.run, hfired, Nat.mod_eq_zero_of_dvd hdvd]
      rfl
    · rw [SubTimer.run, hsilent, hsum, run_compare]

end

/-- Settles O39: after `n` calls the counter holds the increments of `n % K` calls, by induction on the calls,
so call `n + 1` fires exactly if it completes a period. -/
theorem subTimerFiresEveryKthCall : Obligations.SubTimerFiresEveryKthCall := by
  intro t inc n hzero hinc hfit
  have hcall := SubTimer.tickInc_at_call (t := SubTimer.run inc n t) (n := n) hinc (by simpa using hfit)
    (by simpa using SubTimer.run_counter hzero hinc hfit n)
  rw [SubTimer.run_compare] at hcall
  rw [SubTimer.firesAt, SubTimer.run]
  obtain ⟨hdvd, hfired⟩ | ⟨hndvd, hsilent, -⟩ := hcall
  · rw [hfired]
    exact ⟨iff_of_true rfl hdvd, fun _ => rfl⟩
  · rw [hsilent]
    exact ⟨iff_of_false Bool.false_ne_true hndvd, fun h => absurd h Bool.false_ne_true⟩

end Sys2Proof.Machine
end

section
/-! Proofs about the oscillator: the triangle's segments, the noise generator, the sample of each waveform, the
period of the phase, and the one refusal, of a reserved waveform code (41_oscillator.md R110 to R122). -/

namespace Sys2Proof.Machine

/-! ### The triangle -/

/-- The three segments as numbers; no subtraction or product leaves a byte (41_oscillator.md R113). -/
theorem triangle_toNat (p : Byte) :
    (triangle p).toNat =
      if p.toNat < 64 then 127 - 2 * p.toNat
      else if p.toNat < 192 then 2 * (p.toNat - 64)
      else 255 - 2 * (p.toNat - 192) := by
  unfold triangle
  dsimp only
  split_ifs <;> rw [BitVec.toNat_ofNat] <;> omega

/-- The first segment ends at 1 and the third at 129, so only the second one touches 0, at its start
(41_oscillator.md R113). -/
theorem triangle_eq_zero_iff (p : Byte) : triangle p = 0#8 ↔ p = 64#8 := by
  rw [← BitVec.toNat_inj, ← BitVec.toNat_inj, triangle_toNat, BitVec.toNat_ofNat, BitVec.toNat_ofNat]
  split_ifs <;> omega

/-- The first segment begins at 127 and the second ends at 254, so only the third one touches 255, at its start
(41_oscillator.md R113). -/
theorem triangle_eq_255_iff (p : Byte) : triangle p = 255#8 ↔ p = 192#8 := by
  have hp := p.isLt
  rw [← BitVec.toNat_inj, ← BitVec.toNat_inj, triangle_toNat, BitVec.toNat_ofNat, BitVec.toNat_ofNat]
  split_ifs <;> omega

/-- A phase that is not the last of its segment has its successor in the same segment, where the slope is 2
(41_oscillator.md R113). -/
theorem triangle_succ {p : Byte} (h63 : p ≠ 63#8) (h191 : p ≠ 191#8) (h255 : p ≠ 255#8) :
    (triangle (p + 1#8)).toNat + 2 = (triangle p).toNat ∨
      (triangle (p + 1#8)).toNat = (triangle p).toNat + 2 := by
  have hp := p.isLt
  rw [ne_eq, ← BitVec.toNat_inj, BitVec.toNat_ofNat] at h63 h191 h255
  have hsucc : (p + 1#8).toNat = p.toNat + 1 :=
    BitVec.toNat_add_of_lt (by rw [BitVec.toNat_ofNat]; omega)
  rw [triangle_toNat, triangle_toNat, hsucc]
  split_ifs <;> omega

/-- Settles O49, from the three segments; the end points are evaluated. -/
theorem triangleTouchesItsApexesOnce : Obligations.TriangleTouchesItsApexesOnce :=
  ⟨fun p => ⟨triangle_eq_zero_iff p, triangle_eq_255_iff p⟩, ⟨rfl, rfl, rfl, rfl⟩,
    fun _ h255 h63 h191 => triangle_succ h63 h191 h255⟩

/-! ### The noise generator -/

/-- A word that equals its own left shift is 0: each of its bits equals a lower one or is shifted in. -/
theorem eq_zero_of_eq_shiftLeft {w k : Nat} {x : BitVec w} (hk : 0 < k) (h : x = x <<< k) : x = 0#w := by
  have hbit (i : Nat) : x.getLsbD i = false := by
    induction i using Nat.strong_induction_on with
    | _ i ih =>
      rw [h, BitVec.getLsbD_shiftLeft]
      by_cases hi : i < k
      · simp [hi]
      · simp [ih (i - k) (by omega)]
  exact BitVec.eq_of_getLsbD_eq fun i _ => by rw [hbit, BitVec.getLsbD_zero]

/-- A word that equals its own right shift is 0, as dividing makes any other number smaller. -/
theorem eq_zero_of_eq_ushiftRight {w k : Nat} {x : BitVec w} (hk : 0 < k) (h : x = x >>> k) : x = 0#w := by
  have hdiv : x.toNat = x.toNat / 2 ^ k := by
    rw [← Nat.shiftRight_eq_div_pow, ← BitVec.toNat_ushiftRight, ← h]
  refine BitVec.eq_of_toNat_eq (Nat.eq_zero_of_not_pos fun hpos => ?_)
  exact absurd hdiv (Nat.div_lt_self hpos (Nat.one_lt_two_pow hk.ne')).ne'

/-- No nonzero word is cancelled by its own left shift. -/
theorem xor_shiftLeft_eq_zero_iff {w k : Nat} (hk : 0 < k) (x : BitVec w) :
    x ^^^ (x <<< k) = 0#w ↔ x = 0#w :=
  ⟨fun h => eq_zero_of_eq_shiftLeft hk (BitVec.xor_eq_zero_iff.mp h), by rintro rfl; simp⟩

/-- No nonzero word is cancelled by its own right shift. -/
theorem xor_ushiftRight_eq_zero_iff {w k : Nat} (hk : 0 < k) (x : BitVec w) :
    x ^^^ (x >>> k) = 0#w ↔ x = 0#w :=
  ⟨fun h => eq_zero_of_eq_ushiftRight hk (BitVec.xor_eq_zero_iff.mp h), by rintro rfl; simp⟩

/-- Each of the three shift steps leads to 0 from 0 alone (41_oscillator.md R118). -/
theorem noiseNext_eq_zero_iff (x : DWord) : noiseNext x = 0#32 ↔ x = 0#32 := by
  unfold noiseNext
  rw [xor_shiftLeft_eq_zero_iff (by decide), xor_ushiftRight_eq_zero_iff (by decide),
    xor_shiftLeft_eq_zero_iff (by decide)]

theorem noiseNext_iterate_eq_zero_iff (x : DWord) (n : Nat) : noiseNext^[n] x = 0#32 ↔ x = 0#32 := by
  induction n with
  | zero => rfl
  | succ n ih => rw [Function.iterate_succ_apply', noiseNext_eq_zero_iff, ih]

/-- A left shift is a product modulo 2^32, a right shift a quotient (41_oscillator.md R116). -/
theorem noiseNext_toNat (x : DWord) {a b : Nat} (ha : a = x.toNat ^^^ (x.toNat * 2 ^ 13 % 2 ^ 32))
    (hb : b = a ^^^ (a / 2 ^ 17)) : (noiseNext x).toNat = b ^^^ (b * 2 ^ 5 % 2 ^ 32) := by
  subst hb ha
  simp only [noiseNext, BitVec.toNat_xor, BitVec.toNat_shiftLeft, BitVec.toNat_ushiftRight,
    Nat.shiftLeft_eq, Nat.shiftRight_eq_div_pow]

theorem noiseByte_toNat (x : DWord) : (noiseByte x).toNat = x.toNat % 256 := by
  simp [noiseByte]

/-- Settles O51: the generator's arithmetic, and that no step leads to 0 but from 0, iterated. -/
theorem noiseStaysZeroOrNonzero : Obligations.NoiseStaysZeroOrNonzero := by
  intro x n
  have hzero : noiseNext^[n] 0#32 = 0#32 := (noiseNext_iterate_eq_zero_iff 0#32 n).mpr rfl
  exact ⟨fun _ _ => noiseNext_toNat x, noiseByte_toNat x, noiseNext_iterate_eq_zero_iff x n,
    congrArg noiseByte hzero⟩

/-! ### The sample of each waveform -/

theorem sawtooth_toNat (p : Byte) : (sawtooth p).toNat = (p.toNat + 127) % 256 :=
  BitVec.toNat_add p 127#8

/-- The table has an entry at every phase (41_oscillator.md R112). -/
theorem sineTable_getElem? (p : Params) (phase : Byte) :
    p.sineTable.toList[phase.toNat]? = some (p.sineTable.get phase.toFin) := by
  simp [Vector.get]

/-- Settles O59: under a legal map the multiplexer takes the branch of the voice's waveform, whose value the
waveform's own lemma gives. -/
theorem oscSampleGivesEachWaveform : Obligations.OscSampleGivesEachWaveform := by
  refine ⟨rfl, fun p x v hmap => ?_⟩
  have hsample := oscSample_of_waveform (v := v) hmap x
  exact ⟨hsample .none,
    fun h => ⟨_, hsample .sine h, sineTable_getElem? p v.phase⟩,
    fun h => ⟨_, hsample .triangle h, triangle_toNat v.phase⟩,
    hsample .square,
    fun h => ⟨_, hsample .sawtooth h, sawtooth_toNat v.phase⟩,
    fun h => ⟨_, hsample .noise h, noiseByte_toNat _⟩,
    hsample .dc,
    (oscSample_eq_none_iff p x v).mpr⟩

/-! ### The phase accumulator -/

/-- `k` advances add the tuning word `k` times, modulo 256, and keep it (41_oscillator.md R120). -/
theorem oscAdvance_iterate (v : Voice) (k : Nat) :
    oscAdvance^[k] v = { v with phase := v.phase + BitVec.ofNat 8 (k * v.tuningWord.toNat) } := by
  induction k with
  | zero => simp
  | succ k ih =>
    rw [Function.iterate_succ_apply', ih, oscAdvance, Nat.succ_mul, BitVec.ofNat_add, BitVec.ofNat_toNat,
      BitVec.setWidth_eq, BitVec.add_assoc]

/-- What added to a phase leaves it unchanged: the multiples of 256. -/
theorem add_ofNat_eq_self_iff (phase : Byte) (n : Nat) : phase + BitVec.ofNat 8 n = phase ↔ 256 ∣ n := by
  rw [add_eq_left, ← BitVec.toNat_inj, BitVec.toNat_ofNat, Nat.dvd_iff_mod_eq_zero]
  rfl

/-- The multiples `k * b` of `b` that `a` divides are those of the multiples `k` of `a / gcd(b, a)`. -/
theorem dvd_mul_iff_div_gcd_dvd {a : Nat} (ha : 0 < a) (b k : Nat) : a ∣ k * b ↔ a / Nat.gcd b a ∣ k := by
  rw [Nat.div_dvd_iff_dvd_mul (Nat.gcd_dvd_right b a) (Nat.gcd_pos_of_pos_right b ha), Nat.mul_comm (b.gcd a),
    Nat.gcd_comm, Nat.dvd_mul_gcd_iff_dvd_mul]

/-- Settles O50: `k` advances add `k` times the tuning word, which 256 divides exactly for the multiples of
`256 / gcd(tuning word, 256)`. -/
theorem phasePeriodIs256OverGcd : Obligations.PhasePeriodIs256OverGcd := by
  intro v k
  rw [oscAdvance_iterate, add_ofNat_eq_self_iff]
  exact dvd_mul_iff_div_gcd_dvd (by decide) _ k

/-! ### The refusal of a reserved waveform code -/

/-- The voice that a pass is refused at: the first whose waveform code is reserved (41_oscillator.md R119). -/
def firstReserved (p : Params) (voices : List Voice) : Option Voice :=
  voices.find? fun v => v.waveform ∉ p.waveMap.codes

theorem firstReserved_cons_reserved {p : Params} {v : Voice} (h : v.waveform ∉ p.waveMap.codes)
    (rest : List Voice) : firstReserved p (v :: rest) = some v :=
  List.find?_cons_of_pos (decide_eq_true h)

theorem firstReserved_cons_defined {p : Params} {v : Voice} (h : v.waveform ∈ p.waveMap.codes)
    (rest : List Voice) : firstReserved p (v :: rest) = firstReserved p rest :=
  List.find?_cons_of_neg (by simpa using h)

theorem firstReserved_spec {p : Params} {voices : List Voice} {v : Voice}
    (h : firstReserved p voices = some v) : v ∈ voices ∧ v.waveform ∉ p.waveMap.codes :=
  ⟨List.mem_of_find?_eq_some h, by simpa using List.find?_some h⟩

theorem exists_firstReserved {p : Params} {voices : List Voice}
    (h : ∃ v ∈ voices, v.waveform ∉ p.waveMap.codes) : ∃ v, firstReserved p voices = some v := by
  obtain ⟨v, hv, hreserved⟩ := h
  exact Option.isSome_iff_exists.mp (List.find?_isSome.mpr ⟨v, hv, decide_eq_true hreserved⟩)

/-- A pass over the voices is refused exactly at the first reserved code, whatever the noise state is
(41_oscillator.md R119). -/
theorem synthVoices_error_iff (p : Params) (presets : List Preset) (noise : DWord) (voices : List Voice)
    (r : Refusal) :
    synthVoices p presets noise voices = .error r ↔
      ∃ v, firstReserved p voices = some v ∧ r = .reservedWaveform v.waveform := by
  induction voices generalizing noise with
  | nil => simp [synthVoices, firstReserved]
  | cons v rest ih =>
    cases ho : oscSample p noise v with
    | none =>
      rw [firstReserved_cons_reserved ((oscSample_eq_none_iff p noise v).mp ho)]
      simp [synthVoices, synthVoice, ho, eq_comm]
    | some sampled =>
      obtain ⟨o, noise'⟩ := sampled
      have hdefined : v.waveform ∈ p.waveMap.codes := by
        by_contra h
        simp [(oscSample_eq_none_iff p noise v).mpr h] at ho
      rw [firstReserved_cons_defined hdefined, ← ih noise', synthVoices_cons p presets noise v rest ho]
      cases synthVoices p presets noise' rest <;> simp

/-- A synthesis is refused exactly when its pass over the voices is. -/
theorem State.synth_refused_iff (s : State) (r : Refusal) :
    s.synth = .refused r ↔ ∃ v, firstReserved s.params s.voices = some v ∧
      r = .reservedWaveform v.waveform := by
  rw [← synthVoices_error_iff s.params s.presets s.noise, State.synth]
  cases synthVoices s.params s.presets s.noise s.voices <;> simp

/-- A step is refused exactly when it is a synthesis that is: no moment between ticks and no command is
(41_oscillator.md R119, log 13). -/
theorem step_refused_iff (s : State) (r : Refusal) :
    step s = .refused r ↔ s.tickPhase = .synth ∧ s.synth = .refused r := by
  constructor
  · intro h
    cases hp : s.tickPhase with
    | idle => rw [step_idle hp] at h; cases h
    | synth => exact ⟨rfl, step_synth hp ▸ h⟩
    | burst =>
      cases hf : s.fetchInstr with
      | error _ => rw [step_burst_error hp hf] at h; cases h
      | ok i =>
        obtain ⟨t, ht⟩ := exec_completes i s.takeCall
        rw [step_burst hp hf, ht] at h
        cases h
  · rintro ⟨hp, hr⟩
    rw [step_synth hp, hr]

/-- Settles O36: the refused steps are the syntheses that meet a reserved code, the first of which the refusal
names. -/
theorem onlyReservedWaveformsAreRefused : Obligations.OnlyReservedWaveformsAreRefused := by
  refine ⟨fun s r h => ?_, fun s hp hreserved => ?_⟩
  · obtain ⟨hp, hs⟩ := (step_refused_iff s r).mp h
    obtain ⟨v, hfirst, hr⟩ := (s.synth_refused_iff r).mp hs
    obtain ⟨hv, hcode⟩ := firstReserved_spec hfirst
    exact ⟨hp, v, hv, hcode, hr⟩
  · obtain ⟨v, hfirst⟩ := exists_firstReserved hreserved
    exact ⟨_, (step_refused_iff s _).mpr ⟨hp, (s.synth_refused_iff _).mpr ⟨v, hfirst, rfl⟩⟩⟩

end Sys2Proof.Machine
end

section
/-! Proofs about the envelope generator: the millisecond conversion, what one call does, and the runs of calls
through the phases (42_envelope.md R133 to R146). -/

namespace Sys2Proof.Machine

/-! ### The millisecond conversion -/

/-- Settles O58: `1000 div ms` lies between 1 and 1000, so from 1000 Hz on the outer division has a positive
value, which a quotient keeps at most the rate. -/
theorem msToTicksFollowsItsFormula : Obligations.MsToTicksFollowsItsFormula := by
  intro rate ms hone hthousand
  refine ⟨fun hlow hhigh => ?_, fun hrate _ => ⟨?_, Nat.div_le_self ..⟩⟩
  · have hdomain : 1 ≤ ms.toNat ∧ ms.toNat ≤ 1000 ∧ 1 ≤ rate / (1000 / ms.toNat) ∧
        rate / (1000 / ms.toNat) ≤ 65536 := ⟨hone, hthousand, hlow, hhigh⟩
    rw [msToTicks, if_pos hdomain, BitVec.toNat_ofNat]
    exact Nat.mod_eq_of_lt (by omega)
  · have hle : 1000 / ms.toNat ≤ rate := (Nat.div_le_self ..).trans hrate
    exact Nat.div_pos hle (Nat.div_pos hthousand hone)

/-! ### One call -/

section
variable {presets : List Preset} {e : Envelope}

theorem envSample_bypassed (h : e.type = 0#5) : envSample presets e = (255#8, e) := if_pos h

theorem envSample_ended (htype : e.type ≠ 0#5) (h : e.ended = true) :
    envSample presets e = (0#8, e) := by
  rw [envSample, if_neg htype, if_pos h]

/-- A call of an envelope that neither bypass nor the end cuts short: the timer's call, and on a firing the
transition (42_envelope.md R139). -/
theorem envSample_live_snd (htype : e.type ≠ 0#5) (hlive : e.ended = false) :
    (envSample presets e).2 =
      if (e.timer.tickInc 1024#32).1 then envFire presets { e with timer := (e.timer.tickInc 1024#32).2 }
      else { e with timer := (e.timer.tickInc 1024#32).2 } := by
  simp [envSample, htype, hlive]

/-- Such a call returns the value that it leaves (42_envelope.md R139). -/
theorem envSample_live_fst (htype : e.type ≠ 0#5) (hlive : e.ended = false) :
    (envSample presets e).1 = (envSample presets e).2.value := by
  simp [envSample, htype, hlive]

/-- An envelope that a call leaves as it is answers every call alike. -/
theorem envCall_envRun_of_fixed {out : Byte} (h : envSample presets e = (out, e)) (j : Nat) :
    envCall presets j e = out ∧ envRun presets j e = e := by
  have hrun : ∀ n, envRun presets n e = e := by
    intro n
    induction n with
    | zero => rfl
    | succ n ih => rw [envRun, ih, h]
  exact ⟨by rw [envCall, hrun, h], hrun j⟩

theorem envRun_add (presets : List Preset) (m n : Nat) (e : Envelope) :
    envRun presets (m + n) e = envRun presets m (envRun presets n e) := by
  induction m with
  | zero => rw [Nat.zero_add, envRun]
  | succ m ih => rw [Nat.succ_add, envRun, envRun, ih]

theorem envCall_add (presets : List Preset) {m : Nat} (hm : 1 ≤ m) (n : Nat) (e : Envelope) :
    envCall presets (m + n) e = envCall presets m (envRun presets n e) := by
  rw [envCall, envCall, Nat.sub_add_comm hm, envRun_add]

end

/-! ### Envelopes that hold -/

/-- In Sustain a call moves the timer alone: a firing does nothing (42_envelope.md R142). -/
theorem envRun_sustain {presets : List Preset} {e : Envelope} (htype : e.type ≠ 0#5)
    (hlive : e.ended = false) (hstate : e.state = .sustain) (n : Nat) :
    envRun presets n e = { e with timer := SubTimer.run 1024#32 n e.timer } := by
  induction n with
  | zero => rfl
  | succ n ih =>
    rw [envRun, ih, envSample_live_snd (by exact htype) (by exact hlive)]
    simp only [envFire, hstate, ite_self, SubTimer.run]

/-- Settles O55: a run of Sustain moves the timer alone, and a call of a bypassed or an ended envelope leaves all
of it. -/
theorem sustainBypassAndEndedHold : Obligations.SustainBypassAndEndedHold := by
  intro presets e j hj
  refine ⟨fun htype hlive hstate => ?_, fun hbypass => ?_, fun htype hended => ?_⟩
  · have hrun := envRun_sustain (presets := presets) htype hlive hstate
    refine ⟨?_, by rw [hrun]⟩
    obtain ⟨n, rfl⟩ := Nat.exists_eq_add_of_le' hj
    have hvalue : (envSample presets (envRun presets n e)).2.value = e.value := by
      rw [← envRun, hrun]
    rw [envCall, Nat.add_sub_cancel, ← hvalue]
    exact envSample_live_fst (by rwa [hrun]) (by rwa [hrun])
  · exact envCall_envRun_of_fixed (envSample_bypassed hbypass) j
  · exact envCall_envRun_of_fixed (envSample_ended htype hended) j

/-! ### A run through a phase -/

/-- An envelope inside a phase that has not ended. -/
abbrev Envelope.live (type : BitVec 5) (phase : EnvState) (value : Byte) (timer : SubTimer) : Envelope where
  type := type
  state := phase
  ended := false
  value := value
  timer := timer

/-- The entry to a phase forces its value and arms its timer (42_envelope.md R131). -/
theorem envReset_eq_live {presets : List Preset} {e : Envelope} {p : Preset} {target : EnvState}
    (htype : e.type ≠ 0#5) (hp : presets[e.type.toNat - 1]? = some p)
    (henters : target ≠ .release ∨ e.ended = false) :
    envReset presets e target =
      .live e.type target (envEntry p target).1 ⟨(envEntry p target).2, 0#32⟩ := by
  obtain ⟨hrelease, hended, -⟩ | ⟨-, h⟩ := envReset_cases presets e target
  · simp [hrelease, hended] at henters
  · rw [h, envPreset_eq htype hp]

/-- The first `last` firings of a phase take its value along the sequence `value` and change nothing else. -/
def StepsAlong (presets : List Preset) (type : BitVec 5) (phase : EnvState) (value : Nat → Byte)
    (last : Nat) : Prop :=
  ∀ m t, m < last →
    envFire presets (.live type phase (value m) t) = .live type phase (value (m + 1)) t

section
variable {presets : List Preset} {type : BitVec 5} {phase : EnvState} {compare : DWord}
  {value : Nat → Byte} {last : Nat}

theorem envPeriod_pos (compare : DWord) : 0 < envPeriod compare := firingPeriod_pos ..

/-- Call `n + 1` after the entry to a phase fires exactly if the period divides `n + 1`
(40_subtimer.md R104). -/
theorem envSample_live_run (htype : type ≠ 0#5) (hfit : compare.toNat ≤ 2 ^ 31) (v : Byte) (n : Nat) :
    (envSample presets (.live type phase v (SubTimer.run 1024#32 n ⟨compare, 0#32⟩))).2 =
      if envPeriod compare ∣ n + 1 then
        envFire presets (.live type phase v (SubTimer.run 1024#32 (n + 1) ⟨compare, 0#32⟩))
      else .live type phase v (SubTimer.run 1024#32 (n + 1) ⟨compare, 0#32⟩) := by
  have hstep : (1024#32 : DWord).toNat = 1024 := rfl
  obtain ⟨hfires, -⟩ := subTimerFiresEveryKthCall ⟨compare, 0#32⟩ 1024#32 n rfl (by decide)
    (by rw [hstep]; dsimp only; omega)
  rw [envSample_live_snd htype rfl]
  exact if_congr hfires rfl rfl

/-- Before its last call a phase has the value of as many steps as periods have passed
(42_envelope.md R140, R143). -/
theorem envRun_live_of_lt (htype : type ≠ 0#5) (hfit : compare.toNat ≤ 2 ^ 31)
    (hsteps : StepsAlong presets type phase value last) {j : Nat} (hj : j < (last + 1) * envPeriod compare) :
    envRun presets j (.live type phase (value 0) ⟨compare, 0#32⟩) =
      .live type phase (value (j / envPeriod compare)) (SubTimer.run 1024#32 j ⟨compare, 0#32⟩) := by
  induction j with
  | zero => rw [Nat.zero_div]; rfl
  | succ n ih =>
    have hcount : (n + 1) / envPeriod compare < last + 1 :=
      (Nat.div_lt_iff_lt_mul (envPeriod_pos compare)).mpr hj
    rw [Nat.succ_div] at hcount
    rw [envRun, ih (Nat.lt_of_succ_lt hj), envSample_live_run htype hfit, Nat.succ_div]
    split
    · next hdvd =>
      rw [if_pos hdvd] at hcount
      exact hsteps _ _ (by omega)
    · rfl

/-- The last call of a phase fires on the value that the steps have reached (42_envelope.md R143). -/
theorem envRun_live_last (htype : type ≠ 0#5) (hfit : compare.toNat ≤ 2 ^ 31)
    (hsteps : StepsAlong presets type phase value last) :
    ∃ t, envRun presets ((last + 1) * envPeriod compare) (.live type phase (value 0) ⟨compare, 0#32⟩) =
      envFire presets (.live type phase (value last) t) := by
  have hpos : 0 < (last + 1) * envPeriod compare := Nat.mul_pos last.succ_pos (envPeriod_pos compare)
  obtain ⟨n, hn⟩ : ∃ n, (last + 1) * envPeriod compare = n + 1 := Nat.exists_eq_add_of_le' hpos
  have hdvd : envPeriod compare ∣ n + 1 := hn ▸ Nat.dvd_mul_left ..
  have hcount : n / envPeriod compare = last := by
    have h := Nat.succ_div (a := n) (b := envPeriod compare)
    rw [if_pos hdvd, ← hn, Nat.mul_div_cancel _ (envPeriod_pos compare)] at h
    omega
  refine ⟨SubTimer.run 1024#32 (n + 1) ⟨compare, 0#32⟩, ?_⟩
  rw [hn, envRun, envRun_live_of_lt htype hfit hsteps (by omega), envSample_live_run htype hfit,
    if_pos hdvd, hcount]

end

/-- The calls of a phase, from its entry to its last call: each returns the value that it leaves, which is the one of
as many steps as periods have passed, and the last call fires on the value of the last step
(42_envelope.md R143). -/
theorem phase_calls {presets : List Preset} {e : Envelope} {p : Preset} {target : EnvState}
    {value : Nat → Byte} {last K n j : Nat} (htype : e.type ≠ 0#5)
    (hp : presets[e.type.toNat - 1]? = some p) (henters : target ≠ .release ∨ e.ended = false)
    (hfirst : value 0 = (envEntry p target).1) (hsteps : StepsAlong presets e.type target value last)
    (hK : K = envPeriod (envEntry p target).2) (hn : n = (last + 1) * K) (hpos : 1 ≤ j) (hj : j ≤ n) :
    envCall presets j (envReset presets e target) = (envRun presets j (envReset presets e target)).value ∧
    ∃ t, envRun presets j (envReset presets e target) =
      if j < n then .live e.type target (value (j / K)) t
      else envFire presets (.live e.type target (value last) t) := by
  subst hn hK
  have hfit := envEntry_compare_le p target
  rw [envReset_eq_live htype hp henters, ← hfirst]
  constructor
  · obtain ⟨n, rfl⟩ := Nat.exists_eq_add_of_le' hpos
    rw [envCall, Nat.add_sub_cancel, envRun, envRun_live_of_lt htype hfit hsteps hj]
    exact envSample_live_fst htype rfl
  · split
    · next hlt => exact ⟨_, envRun_live_of_lt htype hfit hsteps hlt⟩
    · next hlast =>
      rw [le_antisymm hj (Nat.le_of_not_lt hlast)]
      exact envRun_live_last htype hfit hsteps

/-- The calls of a phase of `steps` unit steps; one call where there is no step (42_envelope.md R143). -/
theorem phase_length (ticks : Word) (steps : Nat) :
    (steps - 1 + 1) * envPeriod (envCompare ticks steps) =
      if steps = 0 then 1 else steps * envPeriod (envCompare ticks steps) := by
  split
  · next h => rw [h]; exact (by decide : (0 - 1 + 1) * envPeriod 0#32 = 1)
  · next h => rw [Nat.sub_add_cancel (Nat.pos_of_ne_zero h)]

/-! ### Firings of the three sloped phases -/

section
variable {presets : List Preset} {type : BitVec 5} {p : Preset} {v : Byte}

theorem envFire_attack_step (h : v.toNat < 254) (t : SubTimer) :
    envFire presets (.live type .attack v t) = .live type .attack (v + 1#8) t :=
  if_neg (show ¬ v.toNat + 1 ≥ 255 by omega)

theorem envFire_attack_last (htype : type ≠ 0#5) (hp : presets[type.toNat - 1]? = some p)
    (h : 254 ≤ v.toNat) (t : SubTimer) :
    envFire presets (.live type .attack v t) = .live type .decay 255#8 ⟨(envEntry p .decay).2, 0#32⟩ :=
  (if_pos (show v.toNat + 1 ≥ 255 by omega)).trans (envReset_eq_live htype hp (.inl nofun))

theorem envFire_decay_step (htype : type ≠ 0#5) (hp : presets[type.toNat - 1]? = some p)
    (h : p.sustainLevel.toNat + 1 < v.toNat) (t : SubTimer) :
    envFire presets (.live type .decay v t) = .live type .decay (v - 1#8) t := by
  refine if_neg (show ¬ (v.toNat : Int) - 1 ≤ (envPreset presets type).sustainLevel.toNat from ?_)
  rw [envPreset_eq htype hp]
  omega

theorem envFire_decay_last (htype : type ≠ 0#5) (hp : presets[type.toNat - 1]? = some p)
    (h : v.toNat ≤ p.sustainLevel.toNat + 1) (t : SubTimer) :
    envFire presets (.live type .decay v t) = .live type .sustain p.sustainLevel ⟨sustainCompare, 0#32⟩ := by
  refine (if_pos (show (v.toNat : Int) - 1 ≤ (envPreset presets type).sustainLevel.toNat from ?_)).trans
    (envReset_eq_live htype hp (.inl nofun))
  rw [envPreset_eq htype hp]
  omega

theorem envFire_release_step (h : 1 < v.toNat) (t : SubTimer) :
    envFire presets (.live type .release v t) = .live type .release (v - 1#8) t :=
  if_neg (show ¬ (v.toNat : Int) - 1 ≤ 0 by omega)

theorem envFire_release_last (h : v.toNat ≤ 1) (t : SubTimer) :
    envFire presets (.live type .release v t) =
      { type := type, state := .release, ended := true, value := 0#8, timer := t } :=
  if_pos (show (v.toNat : Int) - 1 ≤ 0 by omega)

end

/-! ### The three sloped phases -/

/-- `m` steps down from `level`. -/
def stepsDown (level : Byte) (m : Nat) : Byte := level - BitVec.ofNat 8 m

theorem stepsDown_zero (level : Byte) : stepsDown level 0 = level := BitVec.sub_zero level

theorem stepsDown_succ (level : Byte) (m : Nat) : stepsDown level (m + 1) = stepsDown level m - 1#8 := by
  rw [stepsDown, stepsDown, BitVec.ofNat_add, sub_add_eq_sub_sub]

theorem stepsDown_toNat {level : Byte} {m : Nat} (h : m ≤ level.toNat) :
    (stepsDown level m).toNat = level.toNat - m := by
  have hm : (BitVec.ofNat 8 m).toNat = m := Nat.mod_eq_of_lt (h.trans_lt level.isLt)
  rw [stepsDown, BitVec.toNat_sub_of_le (BitVec.le_def.mpr (hm.symm ▸ h)), hm]

/-- The Attack counts up from 0; its 255th firing is not one of its steps (42_envelope.md R140). -/
theorem stepsAlong_attack (presets : List Preset) (type : BitVec 5) :
    StepsAlong presets type .attack (BitVec.ofNat 8) 254 := by
  intro m t hm
  rw [BitVec.ofNat_add]
  exact envFire_attack_step (by rw [BitVec.toNat_ofNat]; omega) t

/-- The Decay counts down from 255 while the next value is above the sustain level (42_envelope.md R140). -/
theorem stepsAlong_decay {presets : List Preset} {type : BitVec 5} {p : Preset} (htype : type ≠ 0#5)
    (hp : presets[type.toNat - 1]? = some p) :
    StepsAlong presets type .decay (stepsDown 255#8) (255 - p.sustainLevel.toNat - 1) := by
  intro m t hm
  have hvalue : (stepsDown 255#8 m).toNat = 255 - m := stepsDown_toNat (show m ≤ 255 by omega)
  rw [stepsDown_succ]
  exact envFire_decay_step htype hp (by omega) t

/-- The Release counts down from the sustain level while the next value is above 0 (42_envelope.md R141). -/
theorem stepsAlong_release (presets : List Preset) (type : BitVec 5) (level : Byte) :
    StepsAlong presets type .release (stepsDown level) (level.toNat - 1) := by
  intro m t hm
  have hvalue : (stepsDown level m).toNat = level.toNat - m := stepsDown_toNat (by omega)
  rw [stepsDown_succ]
  exact envFire_release_step (by omega) t

/-- Settles O52: the Attack steps up along the numbers to 254, where the last firing enters Decay. -/
theorem attackRisesOneStepEveryKCalls : Obligations.AttackRisesOneStepEveryKCalls := by
  intro presets e p K htype hp hK j hpos hj
  obtain ⟨hcall, t, hrun⟩ := phase_calls (target := .attack) htype hp (.inl nofun) rfl
    (stepsAlong_attack presets e.type) hK rfl hpos hj
  rw [hcall, hrun]
  split
  · next hlt =>
    have hcount : j / K < 255 := Nat.div_lt_of_lt_mul (Nat.mul_comm 255 K ▸ hlt)
    exact ⟨Nat.mod_eq_of_lt (hcount.trans (by decide)), rfl⟩
  · rw [envFire_attack_last htype hp (by decide)]
    exact ⟨rfl, rfl⟩

/-- Settles O53: the Decay steps down from 255 to the last value above the sustain level, where the last firing
enters Sustain. -/
theorem decayFallsOneStepEveryKCalls : Obligations.DecayFallsOneStepEveryKCalls := by
  intro presets e p K n htype hp hK hn j hpos hj
  have hnone : p.sustainLevel = 255#8 ↔ 255 - p.sustainLevel.toNat = 0 := by bv_omega
  rw [if_congr hnone rfl rfl, hK, ← phase_length, ← hK] at hn
  obtain ⟨hcall, t, hrun⟩ := phase_calls (target := .decay) htype hp (.inl nofun) (stepsDown_zero 255#8)
    (stepsAlong_decay htype hp) hK hn hpos hj
  have hdown {m : Nat} (hm : m ≤ 255) : (stepsDown 255#8 m).toNat = 255 - m := stepsDown_toNat hm
  rw [hcall, hrun]
  split
  · next hlt =>
    have hcount := Nat.div_lt_of_lt_mul (Nat.mul_comm _ K ▸ hn ▸ hlt)
    exact ⟨hdown (by omega), rfl⟩
  · rw [envFire_decay_last htype hp (by rw [hdown (by omega)]; omega)]
    exact ⟨rfl, rfl⟩

/-- Settles O54: the Release steps down from the sustain level to 1, or stands at 0 from its entry; the last firing
ends the envelope, which then answers 0 and stays as it is. -/
theorem releaseFallsToZeroAndEnds : Obligations.ReleaseFallsToZeroAndEnds := by
  intro presets e p K n htype hlive hp hK hn j hpos
  have hnone : p.sustainLevel = 0#8 ↔ p.sustainLevel.toNat = 0 := by bv_omega
  rw [if_congr hnone rfl rfl, hK, ← phase_length, ← hK] at hn
  have hphase {i : Nat} := phase_calls (j := i) (target := .release) htype hp (.inr hlive)
    (stepsDown_zero p.sustainLevel) (stepsAlong_release presets e.type p.sustainLevel) hK hn
  obtain hlt | hle := Nat.lt_or_ge j n
  · obtain ⟨hcall, t, hrun⟩ := hphase hpos hlt.le
    have hcount := Nat.div_lt_of_lt_mul (Nat.mul_comm _ K ▸ hn ▸ hlt)
    rw [hcall, hrun, if_pos hlt, if_pos hlt]
    exact ⟨stepsDown_toNat (by omega), (decide_eq_false hlt.not_ge).symm, rfl⟩
  · have hn_pos : 1 ≤ n := hn ▸ Nat.mul_pos (Nat.succ_pos _) (hK ▸ envPeriod_pos _)
    have hlast : (stepsDown p.sustainLevel (p.sustainLevel.toNat - 1)).toNat ≤ 1 := by
      rw [stepsDown_toNat (Nat.sub_le ..)]
      omega
    obtain ⟨hcall, t, hrun⟩ := hphase hn_pos le_rfl
    rw [if_neg (lt_irrefl n), envFire_release_last hlast] at hrun
    rw [if_neg hle.not_gt, decide_eq_true hle]
    obtain rfl | hlater := Nat.eq_or_lt_of_le hle
    · rw [hcall, hrun]
      exact ⟨rfl, rfl, rfl⟩
    · obtain ⟨m, rfl⟩ := Nat.exists_eq_add_of_le' hle
      obtain ⟨hzero, hstays⟩ := envCall_envRun_of_fixed (presets := presets)
        (envSample_ended (e := envRun presets n (envReset presets e .release)) (by rwa [hrun]) (by rw [hrun])) m
      rw [envCall_add presets (by omega), envRun_add, hzero, hstays, hrun]
      exact ⟨rfl, rfl, rfl⟩

end Sys2Proof.Machine
end

section
/-! Proofs about the mixer: the scaling function, the remap and the clamp, and what one synthesis leaves and
emits (43_mixer.md R160 to R176). -/

namespace Sys2Proof.Machine

/-! ### Scaling -/

/-- The product of two nonzero bytes, shifted and counted up by one, stays a byte (43_mixer.md R160). -/
theorem scalePlain_toNat {v s : Byte} (hv : v ≠ 0#8) (hs : s ≠ 0#8) :
    (scalePlain v s).toNat = v.toNat * s.toNat / 256 + 1 := by
  have hprod : v.toNat * s.toNat ≤ 255 * 255 :=
    Nat.mul_le_mul (Nat.le_of_lt_succ v.isLt) (Nat.le_of_lt_succ s.isLt)
  rw [scalePlain, if_neg (not_or.mpr ⟨hv, hs⟩), BitVec.toNat_ofNat, Nat.shiftRight_eq_div_pow]
  omega

theorem scalePlain_eq_zero_iff (v s : Byte) : scalePlain v s = 0#8 ↔ v = 0#8 ∨ s = 0#8 := by
  by_cases h : v = 0#8 ∨ s = 0#8
  · exact iff_of_true (if_pos h) h
  · obtain ⟨hv, hs⟩ := not_or.mp h
    refine iff_of_false (fun hzero => ?_) h
    have hpos := scalePlain_toNat hv hs
    rw [hzero] at hpos
    exact Nat.succ_ne_zero _ hpos.symm

theorem scalePlain_comm (v s : Byte) : scalePlain v s = scalePlain s v := by
  simp only [scalePlain, or_comm, Nat.mul_comm]

/-- `v * 255` lies between `(v - 1) * 256` and `v * 256` (43_mixer.md R160). -/
theorem scalePlain_255 (v : Byte) : scalePlain v 255#8 = v := by
  by_cases hv : v = 0#8
  · rw [hv]; rfl
  · have hpos : v.toNat ≠ 0 := fun h => hv (BitVec.eq_of_toNat_eq h)
    have hlt := v.isLt
    refine BitVec.eq_of_toNat_eq ((scalePlain_toNat hv (by decide)).trans ?_)
    rw [BitVec.toNat_ofNat]
    omega

theorem scalePlain_one {v : Byte} (hv : v ≠ 0#8) : scalePlain v 1#8 = 1#8 := by
  refine BitVec.eq_of_toNat_eq ((scalePlain_toNat hv (by decide)).trans ?_)
  rw [BitVec.toNat_ofNat, Nat.one_mod, Nat.mul_one, Nat.div_eq_of_lt v.isLt]

/-- Settles O46, property by property. -/
theorem plainScaleIsTheFixedPointProduct : Obligations.PlainScaleIsTheFixedPointProduct := fun v s =>
  ⟨scalePlain_eq_zero_iff v s, scalePlain_toNat, scalePlain_comm v s, scalePlain_255 v, scalePlain_one⟩

/-- The free choice of the auto-offset mode is bent away from 0 wherever no input is 0 (43_mixer.md R162). -/
theorem scaleAutoOffset_eq_zero_iff (v s : Byte) : scaleAutoOffset v s = 0#8 ↔ v = 0#8 ∨ s = 0#8 := by
  unfold scaleAutoOffset
  dsimp only
  split
  · next h => exact iff_of_true rfl h
  · next h =>
    refine iff_of_false ?_ h
    split_ifs with _ _ hfree
    exacts [by decide, by decide, by decide, hfree]

theorem scaleAutoOffset_full_scale : 254 ≤ (scaleAutoOffset 255#8 255#8).toNat := by
  rw [scaleAutoOffset, if_neg (by decide), if_pos ⟨rfl, rfl⟩]
  split <;> decide

/-- In both modes a scaled value is 0 exactly when an input is (43_mixer.md R162). -/
theorem scale_eq_zero_iff (mode : ScaleMode) (v s : Byte) : scale mode v s = 0#8 ↔ v = 0#8 ∨ s = 0#8 := by
  cases mode with
  | plain => exact scalePlain_eq_zero_iff v s
  | autoOffset => exact scaleAutoOffset_eq_zero_iff v s

/-- Settles O47, mode by mode. -/
theorem scaleInBothModes : Obligations.ScaleInBothModes := by
  refine ⟨fun mode v s => ⟨scale_eq_zero_iff mode v s, ?_⟩, scalePlain_255 255#8⟩
  cases mode with
  | plain => rw [scale, scalePlain_255]; decide
  | autoOffset => exact scaleAutoOffset_full_scale

/-! ### The remap and the clamp -/

/-- The floor formula without its division (43_mixer.md R172). -/
theorem le_remapFloor_iff {n : Nat} (hn : 1 ≤ n) (q acc : Int) :
    q ≤ Remap.floor.apply n acc ↔ q * (254 * n) ≤ (acc + 127 * n) * 255 :=
  Int.le_ediv_iff_mul_le (by omega)

/-- At the least sum, every voice at -127, the remap is 0 for any number of voices (43_mixer.md R172). -/
theorem remapFloor_bottom (n : Nat) : Remap.floor.apply n (-(127 * (n : Int))) = 0 := by
  rw [Remap.apply, neg_add_cancel, zero_mul, Int.zero_ediv]

theorem clampByte_toNat (m : Int) : ((clampByte m).toNat : Int) = max 0 (min 255 m) := by
  rw [clampByte, BitVec.toNat_ofNat]
  omega

/-- Settles O45: each clause compares the remap with a number, which `le_remapFloor_iff` makes linear. -/
theorem clampActsOnlyAtTheTopOfTheRange : Obligations.ClampActsOnlyAtTheTopOfTheRange := by
  intro n acc hn hn16 hlow hhigh
  have hle := le_remapFloor_iff hn
  have heq (q acc : Int) : Remap.floor.apply n acc = q ↔
      q * (254 * n) ≤ (acc + 127 * n) * 255 ∧ (acc + 127 * n) * 255 < (q + 1) * (254 * n) := by
    rw [← hle, ← not_le, ← hle]
    omega
  have hnonneg : 0 ≤ Remap.floor.apply n acc := (hle 0 acc).mpr (by omega)
  have hbound : Remap.floor.apply n acc ≤ 256 :=
    Int.le_of_lt_add_one (not_le.mp fun h => absurd ((hle 257 acc).mp h) (by omega))
  refine ⟨hnonneg, hbound, ?_, remapFloor_bottom n, (heq 255 _).mpr (by omega), (heq 127 0).mpr (by omega), ?_⟩
  · rw [heq]
    omega
  · rw [clampByte_toNat, max_eq_right (le_min (by decide) hnonneg)]

/-! ### One pass over the voices -/

/-- The machine that has sampled its first voice: the rest of the voices and the noise state they are sampled with
(41_oscillator.md R117). -/
def State.afterVoice (s : State) (v : Voice) (rest : List Voice) : State :=
  { s with
    voices := rest
    noise := if v.waveform = s.params.waveMap.noise then noiseNext s.noise else s.noise }

section
variable {s : State} {v : Voice} {rest : List Voice}

/-- The noise state of a later voice comes from the first voice's. -/
theorem noiseBefore_succ (hvoices : s.voices = v :: rest) (c : Nat) :
    noiseBefore s (c + 1) = noiseBefore (s.afterVoice v rest) c := by
  unfold noiseBefore State.afterVoice
  rw [hvoices, List.take_succ_cons, List.filter_cons]
  by_cases hnoise : v.waveform = s.params.waveMap.noise <;> simp [hnoise]

/-- A voice with a sample adds its scaled value less 127 (43_mixer.md R171). -/
theorem contribution_eq {c : Nat} {o : Byte} {noise : DWord} (hv : s.voices[c]? = some v)
    (ho : oscSample s.params (noiseBefore s c) v = some (o, noise)) :
    contribution s c =
      ((scaledSample s.params.scaleMode o (envSample s.presets v.env).1 v.volume).toNat : Int) - 127 := by
  simp only [contribution, hv, ho]

theorem contribution_succ (hvoices : s.voices = v :: rest) (c : Nat) :
    contribution s (c + 1) = contribution (s.afterVoice v rest) c := by
  have hget : s.voices[c + 1]? = (s.afterVoice v rest).voices[c]? := by rw [hvoices]; rfl
  simp only [contribution, noiseBefore_succ hvoices, hget]
  rfl

/-- The sum over the voices is the first one's contribution and the sum over the rest. -/
theorem accumulator_cons (hvoices : s.voices = v :: rest) :
    accumulator s = contribution s 0 + accumulator (s.afterVoice v rest) := by
  have hsucc : (contribution s ∘ Nat.succ) = contribution (s.afterVoice v rest) :=
    funext (contribution_succ hvoices)
  have hlength : s.numVoices = (s.afterVoice v rest).numVoices + 1 := by
    rw [State.numVoices, hvoices, List.length_cons]
    rfl
  rw [accumulator, hlength, List.range_succ_eq_map, List.map_cons, List.sum_cons, List.map_map, hsucc]
  rfl

end

/-- With defined codes the pass gives the sum over the voice indices and one generator step for every Noise voice
(43_mixer.md R171, 41_oscillator.md R117). -/
theorem synthVoices_defined {s : State} (hmap : s.params.waveMap.Injective) (hdef : s.WaveformsDefined) :
    ∃ voices, synthVoices s.params s.presets s.noise s.voices =
      .ok (accumulator s, voices, noiseBefore s s.numVoices) := by
  generalize hvoices : s.voices = voices
  induction voices generalizing s with
  | nil => exact ⟨[], by simp [synthVoices, accumulator, noiseBefore, State.numVoices, hvoices]⟩
  | cons v rest ih =>
    obtain ⟨o, ho⟩ := oscSample_defined hmap s.noise (hdef v (by simp [hvoices]))
    have hrest : (s.afterVoice v rest).WaveformsDefined := fun u hu =>
      hdef u (hvoices ▸ List.mem_cons_of_mem v hu)
    obtain ⟨voices', hpass⟩ := ih (s := s.afterVoice v rest) hmap hrest rfl
    have hfirst := contribution_eq (c := 0) (by rw [hvoices]; rfl) ho
    have hnoise : noiseBefore s s.numVoices = noiseBefore (s.afterVoice v rest) rest.length := by
      rw [State.numVoices, hvoices, List.length_cons, noiseBefore_succ hvoices]
    rw [synthVoices_cons _ _ _ _ _ ho, accumulator_cons hvoices, hfirst, hnoise]
    simp only [State.afterVoice] at hpass ⊢
    rw [hpass]
    exact ⟨_, rfl⟩

/-! ### The synthesis -/

/-- What a synthesis with defined codes leaves: every voice sampled once, the sum emitted, the tick ended
(43_mixer.md R171, R175). -/
theorem step_synth_defined {s : State} (hphase : s.tickPhase = .synth) (hmap : s.params.waveMap.Injective)
    (hdef : s.WaveformsDefined) :
    step s = .next { s with
      voices := s.voices.map fun v => { oscAdvance v with env := (envSample s.presets v.env).2 }
      noise := noiseBefore s s.numVoices
      tickPhase := .idle
      outputs := .sample (mixOutput s.params s.numVoices s.globalVolume (accumulator s)) :: s.outputs } := by
  obtain ⟨voices, hpass⟩ := synthVoices_defined hmap hdef
  rw [step_synth hphase, State.synth_of_pass hpass, synthVoices_voices hpass]

/-- Settles O43, from what the synthesis leaves. -/
theorem synthAdvancesEveryVoiceAndEmitsOnce : Obligations.SynthAdvancesEveryVoiceAndEmitsOnce :=
  fun _ hphase hmap hdef =>
    ⟨_, _, step_synth_defined hphase hmap hdef, rfl, rfl, fun _ => List.getElem?_map⟩

/-- A scaled sample is a byte, so a voice adds between -127 and 128. -/
theorem contribution_bounds (s : State) (c : Nat) : -127 ≤ contribution s c ∧ contribution s c ≤ 128 := by
  unfold contribution
  split
  · decide
  · split
    · decide
    · next v _ _ o _ _ =>
      have := (scaledSample s.params.scaleMode o (envSample s.presets v.env).1 v.volume).isLt
      omega

theorem accumulator_bounds (s : State) :
    -(127 * (s.numVoices : Int)) ≤ accumulator s ∧ accumulator s ≤ 128 * s.numVoices := by
  have hlow := List.card_nsmul_le_sum ((List.range s.numVoices).map (contribution s)) (-127)
    (List.forall_mem_map.mpr fun c _ => (contribution_bounds s c).1)
  have hhigh := List.sum_le_card_nsmul ((List.range s.numVoices).map (contribution s)) 128
    (List.forall_mem_map.mpr fun c _ => (contribution_bounds s c).2)
  rw [List.length_map, List.length_range, nsmul_eq_mul] at hlow hhigh
  unfold accumulator
  omega

/-- Settles O44, from what the synthesis leaves and the bounds of each voice's contribution. -/
theorem emittedSampleIsTheScaledSumOverVoices : Obligations.EmittedSampleIsTheScaledSumOverVoices := by
  intro s hphase hmap hdef
  refine ⟨_, _, step_synth_defined hphase hmap hdef, rfl, fun hfloor => ?_, rfl, accumulator_bounds s⟩
  rw [hfloor, Remap.apply]

/-! ### Silence -/

/-- A voice at volume 0 adds -127, whatever its sample (43_mixer.md R171). -/
theorem contribution_of_volume_zero {s : State} {c : Nat} {v : Voice} (hmap : s.params.waveMap.Injective)
    (hv : s.voices[c]? = some v) (hdef : v.waveform ∈ s.params.waveMap.codes) (hvolume : v.volume = 0#8) :
    contribution s c = -127 := by
  obtain ⟨o, ho⟩ := oscSample_defined hmap (noiseBefore s c) hdef
  have hscaled (env : Byte) : scaledSample s.params.scaleMode o env v.volume = 0#8 :=
    (scale_eq_zero_iff ..).mpr (.inr hvolume)
  rw [contribution_eq hv ho, hscaled]
  rfl

theorem accumulator_of_volumes_zero {s : State} (hmap : s.params.waveMap.Injective) (hdef : s.WaveformsDefined)
    (hvolumes : ∀ v ∈ s.voices, v.volume = 0#8) : accumulator s = -(127 * (s.numVoices : Int)) := by
  have hall : ∀ c ∈ List.range s.numVoices, contribution s c = -127 := fun c hc => by
    have hv := List.getElem?_eq_getElem (List.mem_range.mp hc)
    have hmem := List.mem_of_getElem? hv
    exact contribution_of_volume_zero hmap hv (hdef _ hmem) (hvolumes _ hmem)
  rw [accumulator, List.map_congr_left hall, List.map_const', List.sum_replicate, List.length_range,
    nsmul_eq_mul]
  omega

/-- Settles O48: the global volume's 0 scales anything to 0, and the volumes' 0 leaves the least sum, which the floor
formula sends to 0. -/
theorem zeroVolumesEmitZero : Obligations.ZeroVolumesEmitZero := by
  intro s hphase hmap hdef hzero
  refine ⟨_, step_synth_defined hphase hmap hdef, congrArg (Output.sample · :: s.outputs) ?_⟩
  refine (scale_eq_zero_iff ..).mpr ?_
  obtain hglobal | ⟨hfloor, hvolumes⟩ := hzero
  · exact .inr hglobal
  · refine .inl ?_
    rw [hfloor, accumulator_of_volumes_zero hmap hdef hvolumes, remapFloor_bottom]
    rfl

end Sys2Proof.Machine
end

section
/-! Proofs about the mixer's control commands: each writes one voice, every voice or the global volume, and nothing
else but the cursor (43_mixer.md R176 to R186). -/

namespace Sys2Proof.Machine

/-! ### Commands that write one voice -/

/-- A move past `len` bytes and a change of voice `c` writes that voice and the cursor alone. -/
theorem writesVoice_updateVoice (s : State) (c len : Nat) (f : Voice → Voice) :
    WritesVoice s ((s.advance len).updateVoice c f) c len f :=
  ⟨(s.advance len).updateVoice_eq c f, fun c' => (s.advance len).updateVoice_getElem? c c' f,
    ((KeepsRun.advance s len).trans (.updateVoice _ c f)).keepsSupplied.keepsMemory⟩

/-- The addressed voice after the change. -/
theorem WritesVoice.voice {s t : State} {c len : Nat} {f : Voice → Voice} {v : Voice}
    (h : WritesVoice s t c len f) (hv : s.voices[c]? = some v) : t.voices[c]? = some (f v) := by
  obtain ⟨-, hvoices, -⟩ := h
  rw [hvoices, if_pos rfl, hv, Option.map_some]

/-- Settles O13: each command is a move and a change of the addressed voice. -/
theorem fieldCommandsWriteOneFieldOfTheVoice : Obligations.FieldCommandsWriteOneFieldOfTheVoice :=
  ⟨fun ch b s => ⟨_, exec_setWave ch b s, writesVoice_updateVoice ..⟩,
    fun ch b s => ⟨_, exec_setVolume ch b s, writesVoice_updateVoice ..⟩,
    fun ch b s => ⟨_, exec_setDuty ch b s, writesVoice_updateVoice ..⟩,
    fun ch s => ⟨_, exec_resetOscillator ch s, writesVoice_updateVoice ..⟩⟩

/-- Settles O14: the command's equation is the claim. -/
theorem setGlobalVolumeStoresItsByte : Obligations.SetGlobalVolumeStoresItsByte := fun ch b s =>
  ⟨_, exec_setGlobalVolume ch b s, rfl, fun _ => rfl⟩

/-- Settles O19: the mixer's reset leaves every voice at its reset values. -/
theorem softwareResetResetsVoicesAndGlobalVolume : Obligations.SoftwareResetResetsVoicesAndGlobalVolume := by
  intro ch s
  have hrun := (KeepsRun.advance s 1).trans (.mixerReset _)
  refine ⟨_, exec_softwareReset ch s, rfl, hrun.keepsSupplied.keepsMemory, hrun.numVoices, fun v hv => ?_⟩
  rw [State.mixerReset_voices] at hv
  exact List.eq_of_mem_replicate hv

/-! ### Envelope restarts -/

/-- The rounded-up quotient is the least integer at or above the rational (42_envelope.md R132). -/
theorem isCeilDiv_add_pred_div (a : Nat) {b : Nat} (hb : b ≠ 0) : IsCeilDiv ((a + b - 1) / b) a b := by
  have hpos := Nat.pos_of_ne_zero hb
  have hdiv := Nat.div_add_mod' (a + b - 1) b
  have hmod := Nat.mod_lt (a + b - 1) hpos
  constructor <;> omega

/-- A timer set to `EnvCompare(T, steps)` is armed for `steps` steps in `T` ticks (42_envelope.md R132). -/
theorem armedFor_envCompare (ticks : Word) (steps : Nat) :
    ArmedFor ⟨envCompare ticks steps, 0#32⟩ ticks steps := by
  refine ⟨rfl, fun h => if_pos h, fun h => ?_⟩
  rw [envCompare_toNat, if_neg h]
  exact isCeilDiv_add_pred_div _ h

/-- A restart in Attack forces the value 0 and arms the timer by the preset (42_envelope.md R133). -/
theorem envReset_attack (presets : List Preset) (e : Envelope) :
    envReset presets e .attack =
      { e with
        value := 0#8
        state := .attack
        ended := false
        timer := ⟨envCompare (envPreset presets e.type).attackTicks 255, 0#32⟩ } := rfl

/-- The bypass record arms no attack (42_envelope.md R138). -/
theorem envCompare_attack_bypassed (presets : List Preset) :
    envCompare (envPreset presets 0#5).attackTicks 255 = 0#32 := by
  simp [envPreset, bypassPreset, envCompare]

/-- An envelope that selects a preset is armed for 255 steps in its attack duration (42_envelope.md R133). -/
theorem armedFor_attack {presets : List Preset} {type : BitVec 5} {p : Preset} (htype : type ≠ 0#5)
    (hp : presets[type.toNat - 1]? = some p) :
    ArmedFor ⟨envCompare (envPreset presets type).attackTicks 255, 0#32⟩ p.attackTicks 255 := by
  rw [envPreset_eq htype hp]
  exact armedFor_envCompare ..

theorem noteIndex_toNat (b : Byte) : (noteIndex b).toNat = b.toNat % 128 := by
  simp [noteIndex]

/-- Every note has an entry in FREQ_TABLE (43_mixer.md R181). -/
theorem freqTable_getElem? (p : Params) (note : BitVec 7) :
    p.freqTable.toList[note.toNat]? = some (p.freqTable.get note.toFin) := by
  simp [Vector.get]

/-- Settles O16: the envelope's restart in Attack, with its timer by the preset or the bypass record. -/
theorem noteOnTunesAndRestartsTheEnvelope : Obligations.NoteOnTunesAndRestartsTheEnvelope := by
  intro ch b s
  have hwrites := writesVoice_updateVoice s ch.toNat 2 (noteOnVoice s.params s.presets (noteIndex b))
  refine ⟨_, exec_noteOn ch b s, ⟨_, hwrites⟩, fun v hv => ⟨_, hwrites.voice hv, rfl, ?_, rfl, ?_, ?_⟩⟩
  · rw [← noteIndex_toNat, freqTable_getElem?]
    rfl
  · intro hbypassed
    simp only [noteOnVoice, envReset_attack, hbypassed, envCompare_attack_bypassed]
  · exact fun p hpreset hp => armedFor_attack hpreset hp

/-! ### NoteOff -/

theorem noteOffVoice_bypassed {v : Voice} (presets : List Preset) (h : v.env.type = 0#5) :
    noteOffVoice presets v = { v with tuningWord := 0#8 } := if_pos h

theorem noteOffVoice_preset {v : Voice} (presets : List Preset) (h : v.env.type ≠ 0#5) :
    noteOffVoice presets v = { v with env := envReset presets v.env .release } := if_neg h

/-- Release does not restart an ended envelope (42_envelope.md R136). -/
theorem envReset_release_ended {e : Envelope} (presets : List Preset) (h : e.ended = true) :
    envReset presets e .release = e := if_pos ⟨rfl, h⟩

/-- Settles O17: a bypassed voice, an ended envelope, and the entry of any other to Release. -/
theorem noteOffStopsOrReleases : Obligations.NoteOffStopsOrReleases := by
  intro ch s
  have hwrites := writesVoice_updateVoice s ch.toNat 1 (noteOffVoice s.presets)
  refine ⟨_, exec_noteOff ch s, ⟨_, hwrites⟩, fun v hv => ⟨_, hwrites.voice hv, ?_, ?_, ?_⟩⟩
  · exact noteOffVoice_bypassed s.presets
  · intro hpreset hended
    rw [noteOffVoice_preset s.presets hpreset, envReset_release_ended s.presets hended]
  · intro p hpreset hlive hp
    rw [noteOffVoice_preset s.presets hpreset, envReset_eq_live hpreset hp (.inr hlive)]
    exact ⟨rfl, by simp only [hlive, envEntry], armedFor_envCompare ..⟩

/-! ### SetADSR -/

/-- A preset index that fits 5 bits is stored as it is (43_mixer.md R186, log 17). -/
theorem presetIndex_toNat {k : Byte} (h : k.toNat ≤ 16) : (k.setWidth 5).toNat = k.toNat := by
  rw [BitVec.toNat_setWidth]
  omega

/-- Settles O20: in range the voice's envelope is selected, restarted and ended; out of range nothing is done. -/
theorem setADSRAssignsThePresetAndEnds : Obligations.SetADSRAssignsThePresetAndEnds := by
  intro ch b s hP
  refine ⟨_, exec_setADSR ch b s, ?_⟩
  obtain ⟨habove, hset⟩ | ⟨hrange, hset⟩ := (s.advance 2).setAdsr_cases ch.toNat b <;> rw [hset]
  · exact ⟨fun _ => ⟨rfl, fun _ => rfl⟩, fun h => absurd habove (Nat.not_lt.mpr h)⟩
  · refine ⟨fun h => absurd hrange (Nat.not_le.mpr h), fun hb => ?_⟩
    have hindex : (b.setWidth 5).toNat = b.toNat := presetIndex_toNat (hb.trans hP)
    have hwrites := writesVoice_updateVoice s ch.toNat 2 (setAdsrVoice s.presets b)
    refine ⟨⟨_, hwrites⟩, fun v hv => ⟨_, hwrites.voice hv, rfl, hindex, rfl, rfl, rfl, ?_, ?_⟩⟩
    · rintro rfl
      exact congrArg (SubTimer.mk · 0#32) (envCompare_attack_bypassed s.presets)
    · intro p hne hp
      have htype : b.setWidth 5 ≠ 0#5 := fun h =>
        hne (BitVec.eq_of_toNat_eq (by rw [← hindex, h]; rfl))
      exact armedFor_attack htype (hindex ▸ hp)

end Sys2Proof.Machine
end
section
/-! Proofs about the whole sample tick: the recursive form of the spec is a run of steps (43_mixer.md R170,
44_tracker.md R200, R201, R224, logs 1 and 16). The recursive form runs on a state that is between ticks, and the
steps keep the outstanding calls in `slots` and `direct`: `State.inTick` goes from the one to the other. -/

namespace Sys2Proof.Machine

/-! ### Runs inside a tick -/

/-- Steps that lead to an outcome, each of them taken inside a tick. -/
inductive StepsInTick : State → Host.Outcome State Fault Refusal → Prop where
  | refl (s : State) : StepsInTick s (.next s)
  | last {s : State} {o : Host.Outcome State Fault Refusal} (hphase : s.tickPhase ≠ .idle)
      (hstep : step s = o) : StepsInTick s o
  | cons {s t : State} {o : Host.Outcome State Fault Refusal} (hphase : s.tickPhase ≠ .idle)
      (hstep : step s = .next t) (hrest : StepsInTick t o) : StepsInTick s o

theorem StepsInTick.trans {s t : State} {o : Host.Outcome State Fault Refusal}
    (h : StepsInTick s (.next t)) (h' : StepsInTick t o) : StepsInTick s o := by
  generalize ho : Host.Outcome.next t = o' at h
  induction h with
  | refl s => cases ho; exact h'
  | last hphase hstep => exact .cons hphase (hstep.trans ho.symm) h'
  | cons hphase hstep _ ih => exact .cons hphase hstep (ih ho)

/-- Such steps are a run of the machine whose states before the outcome are inside the tick. -/
theorem StepsInTick.exists_run {s : State} {o : Host.Outcome State Fault Refusal} (h : StepsInTick s o) :
    ∃ k, Host.Core.run Sys2Proof.core k s = o ∧
      ∀ j < k, ∃ u : State, Host.Core.run Sys2Proof.core j s = .next u ∧ u.tickPhase ≠ .idle := by
  induction h with
  | refl s => exact ⟨0, run_zero Sys2Proof.core s, nofun⟩
  | @last s o hphase hstep =>
    refine ⟨1, ?_, fun j hj => ⟨s, by rw [Nat.lt_one_iff.mp hj]; exact run_zero Sys2Proof.core s, hphase⟩⟩
    cases o with
    | next t => exact (run_succ_next Sys2Proof.core 0 hstep).trans (run_zero Sys2Proof.core t)
    | fault r => exact run_succ_fault Sys2Proof.core 0 hstep
    | refused r => exact run_succ_refused Sys2Proof.core 0 hstep
  | @cons s t o hphase hstep _ ih =>
    obtain ⟨k, hrun, hinside⟩ := ih
    refine ⟨k + 1, (run_succ_next Sys2Proof.core k hstep).trans hrun, fun j hj => ?_⟩
    cases j with
    | zero => exact ⟨s, run_zero Sys2Proof.core s, hphase⟩
    | succ j =>
      obtain ⟨u, hu, hidle⟩ := hinside j (Nat.lt_of_succ_lt_succ hj)
      exact ⟨u, (run_succ_next Sys2Proof.core j hstep).trans hu, hidle⟩

/-! ### The book-keeping of a tick beside the rest of the state -/

/-- The state at a point of a tick with these calls outstanding (log 1). -/
def State.inTick (s : State) (phase : TickPhase) (slots : Nat) (direct : List Nat) : State :=
  { s with tickPhase := phase, slots := slots, direct := direct }

/-- Between ticks no call is outstanding (log 1). -/
def State.Resting (s : State) : Prop := s = s.inTick .idle 0 []

section
variable (s : State) (phase : TickPhase) (slots : Nat) (direct : List Nat)

theorem State.inTick_fetchInstr : (s.inTick phase slots direct).fetchInstr = s.fetchInstr :=
  State.fetchInstr_congr rfl rfl rfl rfl

theorem State.inTick_updateVoice (c : Nat) (f : Voice → Voice) :
    (s.inTick phase slots direct).updateVoice c f = (s.updateVoice c f).inTick phase slots direct := by
  unfold State.updateVoice State.inTick
  dsimp only
  split <;> rfl

theorem State.inTick_envConfigure (k : Nat) (a d : Word) (l : Byte) (r : Word) :
    (s.inTick phase slots direct).envConfigure k a d l r =
      (s.envConfigure k a d l r).inTick phase slots direct := by
  simp only [State.envConfigure, apply_ite (State.inTick · phase slots direct)]
  rfl

/-- No host operation reads or writes the book-keeping of a tick. -/
theorem State.inTick_applyHostOp (op : HostOp) :
    (s.inTick phase slots direct).applyHostOp op = (s.applyHostOp op).inTick phase slots direct := by
  cases op with
  | mixerReset | setGlobalVolume => rfl
  | syncOscillators a b =>
    show (s.inTick phase slots direct).syncOscillators a b = (s.syncOscillators a b).inTick phase slots direct
    have hvoices : (s.inTick phase slots direct).voices = s.voices := rfl
    unfold State.syncOscillators
    rw [hvoices]
    split
    · exact s.inTick_updateVoice phase slots direct a _
    · rfl
  | setAdsr c k =>
    show (s.inTick phase slots direct).setAdsr c k = (s.setAdsr c k).inTick phase slots direct
    unfold State.setAdsr
    rw [State.inTick_updateVoice, apply_ite (State.inTick · phase slots direct)]
    rfl
  | envConfigure k a d l r => exact s.inTick_envConfigure phase slots direct k.toNat a d l r
  | _ => exact s.inTick_updateVoice phase slots direct _ _

end

/-- DirectExec alone among the commands reads or writes the book-keeping of a tick (44_tracker.md R224). -/
theorem exec_inTick {i : Instr} {s t : State} (hi : i.command ≠ .directExec) (h : exec i s = .next t)
    (phase : TickPhase) (slots : Nat) (direct : List Nat) :
    exec i (s.inTick phase slots direct) = .next (t.inTick phase slots direct) := by
  cases exec_effect h with
  | hostOp hop => rw [exec_of_hostOpOf hop, ← State.inTick_applyHostOp]; rfl
  | configure ch a d l r => rw [exec_setADSRValues, ← State.inTick_envConfigure]; rfl
  | directExec => exact absurd rfl hi
  | noAction | setTempo | endOfStream | jumpInFile => rfl

section
variable {s : State}

/-- A halted machine leaves the tick, whatever calls were outstanding (44_tracker.md R217). -/
theorem State.settle_inTick_halted (h : s.halted = true) (phase : TickPhase) (slots : Nat)
    (direct : List Nat) : (s.inTick phase slots direct).settle = s.inTick .idle 0 [] := if_pos h

theorem State.settle_inTick_done (h : s.halted = false) (phase : TickPhase) :
    (s.inTick phase 0 []).settle = s.inTick .synth 0 [] :=
  (if_neg (show ¬ s.halted = true by simp [h])).trans (if_pos rfl)

theorem State.settle_inTick_outstanding (h : s.halted = false) (phase : TickPhase) {slots : Nat}
    {direct : List Nat} (hcalls : ¬ (slots = 0 ∧ direct = [])) :
    (s.inTick phase slots direct).settle = s.inTick .burst slots direct := by
  have hdone : ¬ (s.inTick phase slots direct).burstDone = true := by
    simpa [State.burstDone, State.inTick] using hcalls
  exact (if_neg (show ¬ s.halted = true by simp [h])).trans (if_neg hdone)

end

/-! ### One call of `FetchExecute` -/

/-- An outcome with its next state replaced. -/
def mapNext {α β : Type} (f : α → β) : Host.Outcome α Fault Refusal → Host.Outcome β Fault Refusal
  | .next t => .next (f t)
  | .fault r => .fault r
  | .refused r => .refused r

/-- `n` calls of a DirectExec loop in front of the outstanding ones (44_tracker.md R224). -/
def pushCalls (n : Nat) (direct : List Nat) : List Nat := if n = 0 then direct else n :: direct

theorem takeCall_pushCalls (s : State) (phase : TickPhase) (slots n : Nat) (direct : List Nat) :
    (s.inTick phase slots (pushCalls (n + 1) direct)).takeCall = s.inTick phase slots (pushCalls n direct) := by
  cases n <;> rfl

theorem fetchExecute_error {s : State} {r : Fault} (hf : s.fetchInstr = .error r) (fuel : Nat) :
    fetchExecute (fuel + 1) s = some (.fault r) := by
  simp only [fetchExecute, hf]

theorem fetchExecute_directExec {s : State} {ch : Nibble} {b : Byte}
    (hf : s.fetchInstr = .ok (.directExec ch b)) (fuel : Nat) :
    fetchExecute (fuel + 1) s =
      (repeatCalls (fetchExecute fuel) b.toNat (s.advance 2)).map (mapNext fun t => (t, true)) := by
  simp only [fetchExecute, hf, repeatCount]
  cases repeatCalls (fetchExecute fuel) b.toNat (s.advance 2) with
  | none => rfl
  | some o => cases o <;> rfl

theorem fetchExecute_command {i : Instr} {s t : State} (hi : i.command ≠ .directExec)
    (hf : s.fetchInstr = .ok i) (he : exec i s = .next t) (fuel : Nat) :
    fetchExecute (fuel + 1) s = some (.next (t, false)) := by
  have hmore : moreReady i = false := beq_false_of_ne hi
  cases i with
  | directExec => exact absurd rfl hi
  | _ => simp only [fetchExecute, hf, he, hmore]

/-- A call of the recursive form is steps of the burst: from the state with the call still outstanding they lead to
where the tick goes on after it, without the burst's own calls if it reported more-ready. -/
def CallIsSteps (call : State → TickResult (State × Bool)) : Prop :=
  ∀ (s : State) (o : Host.Outcome (State × Bool) Fault Refusal) (slots slots' : Nat) (direct direct' : List Nat),
    call s = some o →
    (s.inTick .burst slots direct).takeCall = s.inTick .burst slots' direct' →
    StepsInTick (s.inTick .burst slots direct)
      (mapNext (fun r => (r.1.inTick .burst (if r.2 then 0 else slots') direct').settle) o)

section
variable {call : State → TickResult (State × Bool)} (hcall : CallIsSteps call)
include hcall

/-- The loop of DirectExec, its count in front of the outstanding calls (44_tracker.md R224). -/
theorem repeatCalls_steps {n : Nat} {s : State} {o : Host.Outcome State Fault Refusal} {direct : List Nat}
    (h : repeatCalls call n s = some o) :
    StepsInTick (s.inTick .burst 0 (pushCalls n direct)).settle
      (mapNext (fun t => (t.inTick .burst 0 direct).settle) o) := by
  induction n generalizing s with
  | zero => cases h; exact .refl _
  | succ n ih =>
    rw [repeatCalls] at h
    cases hh : s.halted with
    | true =>
      rw [if_pos hh] at h
      cases h
      rw [mapNext, State.settle_inTick_halted hh, State.settle_inTick_halted hh]
      exact .refl _
    | false =>
      rw [if_neg (by simp [hh])] at h
      rw [State.settle_inTick_outstanding hh _ (by simp [pushCalls])]
      have htake := takeCall_pushCalls s .burst 0 n direct
      cases hc : call s with
      | none => simp [hc] at h
      | some oc =>
        have hsteps := hcall s oc 0 0 _ _ hc htake
        cases oc with
        | next r =>
          rw [hc] at h
          rw [mapNext, ite_self] at hsteps
          exact hsteps.trans (ih h)
        | fault r => rw [hc] at h; cases h; exact hsteps
        | refused r => rw [hc] at h; cases h; exact hsteps

/-- The burst's own loop (44_tracker.md R200). -/
theorem burstCalls_steps {n : Nat} {s : State} {o : Host.Outcome State Fault Refusal}
    (hh : s.halted = false) (h : burstCalls call n s = some o) :
    StepsInTick (s.inTick .burst n []).settle (mapNext (fun t => (t.inTick .burst 0 []).settle) o) := by
  induction n generalizing s with
  | zero => cases h; exact .refl _
  | succ n ih =>
    rw [burstCalls] at h
    rw [State.settle_inTick_outstanding hh _ (by simp)]
    cases hc : call s with
    | none => simp [hc] at h
    | some oc =>
      have hsteps := hcall s oc (n + 1) n [] [] hc rfl
      cases oc with
      | next r =>
        obtain ⟨t, more⟩ := r
        simp only [hc] at h
        rw [mapNext] at hsteps
        cases hht : t.halted with
        | true =>
          rw [hht] at h
          cases h
          rw [State.settle_inTick_halted hht] at hsteps
          rwa [mapNext, State.settle_inTick_halted hht]
        | false =>
          rw [hht, Bool.false_or] at h
          cases more with
          | true => cases h; exact hsteps
          | false => exact hsteps.trans (ih hht h)
      | fault r => rw [hc] at h; cases h; exact hsteps
      | refused r => rw [hc] at h; cases h; exact hsteps

end

/-- One `FetchExecute`, by induction on the fuel: a fetch that fails, a DirectExec with its loop, or one other
command. -/
theorem fetchExecute_steps (fuel : Nat) : CallIsSteps (fetchExecute fuel) := by
  induction fuel with
  | zero => exact fun _ _ _ _ _ _ h => nomatch h
  | succ fuel ih =>
    intro s o slots slots' direct direct' h htake
    have hfetch := s.inTick_fetchInstr .burst slots direct
    have hinside : (s.inTick .burst slots direct).tickPhase ≠ .idle := nofun
    cases hf : s.fetchInstr with
    | error r =>
      rw [fetchExecute_error hf] at h
      cases h
      exact .last hinside (step_burst_error rfl (hfetch.trans hf))
    | ok i =>
      have hstep := step_burst (s := s.inTick .burst slots direct) rfl (hfetch.trans hf)
      rw [htake] at hstep
      by_cases hi : i.command = .directExec
      · cases i with
        | directExec ch b =>
          rw [fetchExecute_directExec hf] at h
          obtain ⟨ol, hloop, rfl⟩ := Option.map_eq_some_iff.mp h
          have hsteps := repeatCalls_steps ih (direct := direct') hloop
          refine .cons hinside hstep ?_
          cases ol <;> exact hsteps
        | _ => cases hi
      · obtain ⟨t, he⟩ := exec_completes i s
        rw [fetchExecute_command hi hf he] at h
        cases h
        rw [exec_inTick hi he] at hstep
        exact .last hinside hstep

/-! ### The recursive form stays between ticks -/

theorem exec_resting {i : Instr} {s t : State} (hi : i.command ≠ .directExec) (hs : s.Resting)
    (h : exec i s = .next t) : t.Resting := by
  have hrest := exec_inTick hi h .idle 0 []
  rw [← hs, h] at hrest
  exact Host.Outcome.next.inj hrest

/-- A call that keeps a state between ticks. -/
def CallRests (call : State → TickResult (State × Bool)) : Prop :=
  ∀ (s t : State) (more : Bool), s.Resting → call s = some (.next (t, more)) → t.Resting

section
variable {call : State → TickResult (State × Bool)} (hcall : CallRests call)
include hcall

theorem repeatCalls_resting {n : Nat} {s t : State} (hs : s.Resting)
    (h : repeatCalls call n s = some (.next t)) : t.Resting := by
  induction n generalizing s with
  | zero => cases h; exact hs
  | succ n ih =>
    rw [repeatCalls] at h
    split at h
    · cases h; exact hs
    · split at h
      · next hc => exact ih (hcall _ _ _ hs hc) h
      all_goals cases h

theorem burstCalls_resting {n : Nat} {s t : State} (hs : s.Resting)
    (h : burstCalls call n s = some (.next t)) : t.Resting := by
  induction n generalizing s with
  | zero => cases h; exact hs
  | succ n ih =>
    rw [burstCalls] at h
    split at h
    · next hc =>
      have hu := hcall _ _ _ hs hc
      split at h
      · cases h; exact hu
      · exact ih hu h
    all_goals cases h

end

theorem fetchExecute_resting (fuel : Nat) : CallRests (fetchExecute fuel) := by
  induction fuel with
  | zero => exact fun _ _ _ _ h => nomatch h
  | succ fuel ih =>
    intro s t more hs h
    cases hf : s.fetchInstr with
    | error r => rw [fetchExecute_error hf] at h; cases h
    | ok i =>
      by_cases hi : i.command = .directExec
      · cases i with
        | directExec ch b =>
          rw [fetchExecute_directExec hf] at h
          obtain ⟨ol, hloop, hol⟩ := Option.map_eq_some_iff.mp h
          cases ol with
          | next u =>
            cases hol
            have hmoved : (s.advance 2).Resting := congrArg (State.advance · 2) hs
            exact repeatCalls_resting ih hmoved hloop
          | fault | refused => cases hol
        | _ => cases hi
      · obtain ⟨u, he⟩ := exec_completes i s
        rw [fetchExecute_command hi hf he] at h
        cases h
        exact exec_resting hi hs he

/-! ### The sample tick -/

/-- The state on which the tempo clock's firing starts a burst: the counter cleared, the cursor wrapped to 0 past the
end of the stream (44_tracker.md R200). -/
def State.tempoFired (s : State) : State :=
  { s with
    tempo := ⟨s.tempo.compare, 0#32⟩
    cursor := if s.pastEnd then 0#16 else s.cursor }

/-- What `SampleTick()` makes of the burst's outcome: the synthesis, unless the burst halted (43_mixer.md R170). -/
def afterBurst : Host.Outcome State Fault Refusal → Host.Outcome State Fault Refusal
  | .next t => if t.halted then .next t else t.synth
  | .fault r => .fault r
  | .refused r => .refused r

theorem sampleTick_halted {s : State} (h : s.halted = true) (fuel : Nat) :
    sampleTick fuel s = some (.next s) := if_pos h

theorem sampleTick_running {s : State} (h : ¬ s.halted = true) (fuel : Nat) :
    sampleTick fuel s = (tempoTick fuel s).map afterBurst := by
  rw [sampleTick, if_neg h]
  cases tempoTick fuel s with
  | none => rfl
  | some o =>
    cases o with
    | next t => exact (apply_ite some _ _ _).symm
    | fault | refused => rfl

/-- The tempo clock of a running machine, in the recursive form and in the steps: its firing starts a burst, without a
firing the synthesis is next (44_tracker.md R200). -/
theorem tempoTick_cases {s : State} (h : ¬ s.halted = true) (fuel : Nat) :
    (tempoTick fuel s = burstCalls (fetchExecute fuel) s.numVoices s.tempoFired ∧
      s.beginTick = (s.tempoFired.inTick .burst s.numVoices []).settle) ∨
    ∃ tempo, tempoTick fuel s = some (.next { s with tempo := tempo }) ∧
      s.beginTick = { s with tempo := tempo, tickPhase := .synth } := by
  unfold tempoTick State.beginTick SubTimer.tick
  rw [if_neg h]
  obtain ⟨-, ht⟩ | ⟨-, ht⟩ := s.tempo.tickInc_cases 1#32 <;> rw [ht]
  · exact .inl ⟨rfl, rfl⟩
  · exact .inr ⟨_, rfl, rfl⟩

/-- A synthesis reads nothing of the tick's phase and leaves it between ticks (43_mixer.md R171). -/
theorem synth_inTick {s : State} (hs : s.Resting) : (s.inTick .synth 0 []).synth = s.synth := by
  rw [hs]
  rfl

/-- From where the burst ended the steps go on to the synthesis, or have ended the tick if it halted. -/
theorem StepsInTick.afterBurst {s : State} {o : Host.Outcome State Fault Refusal}
    (h : StepsInTick s (mapNext (fun t => (t.inTick .burst 0 []).settle) o))
    (hrest : ∀ t, o = .next t → t.Resting) : StepsInTick s (afterBurst o) := by
  cases o with
  | next t =>
    have ht := hrest t rfl
    rw [mapNext] at h
    rw [Sys2Proof.Machine.afterBurst]
    cases hh : t.halted with
    | true =>
      rw [State.settle_inTick_halted hh, ← ht] at h
      exact h
    | false =>
      rw [State.settle_inTick_done hh] at h
      exact h.trans (.last nofun ((step_synth rfl).trans (synth_inTick ht)))
  | fault r => exact h
  | refused r => exact h

/-- From the beginning of a tick the steps reach the outcome of the recursive form. -/
theorem sampleTick_steps {fuel : Nat} {s : State} {o : Host.Outcome State Fault Refusal} (hs : s.Resting)
    (h : sampleTick fuel s = some o) : StepsInTick s.beginTick o := by
  by_cases hh : s.halted = true
  · rw [sampleTick_halted hh] at h
    cases h
    have hbegin : s.beginTick = s := if_pos hh
    rw [hbegin]
    exact .refl s
  · rw [sampleTick_running hh] at h
    obtain ⟨htempo, hbegin⟩ | ⟨tempo, htempo, hbegin⟩ := tempoTick_cases hh fuel <;>
      rw [htempo] at h <;> rw [hbegin]
    · obtain ⟨burst, hburst, rfl⟩ := Option.map_eq_some_iff.mp h
      have hfired : s.tempoFired.Resting := congrArg State.tempoFired hs
      refine (burstCalls_steps (fetchExecute_steps fuel) (Bool.not_eq_true _ ▸ hh) hburst).afterBurst ?_
      rintro t rfl
      exact burstCalls_resting (fetchExecute_resting fuel) hfired hburst
    · cases h
      rw [afterBurst, if_neg hh]
      exact .last nofun (step_synth rfl)

/-- Settles O41: the first step begins the tick, and the steps inside it follow the recursive form call by call. -/
theorem sampleTickIsARunOfSteps : Obligations.SampleTickIsARunOfSteps := by
  intro fuel s o hidle hslots hdirect hinbox htick
  have hresting : s.Resting := by rw [State.Resting, State.inTick, ← hidle, ← hslots, ← hdirect]
  have hfirst : step s = .next s.beginTick := by rw [step_idle hidle, State.acceptMoment, hinbox]
  obtain ⟨k, hrun, hstates⟩ := (sampleTick_steps hresting htick).exists_run
  refine ⟨k, (run_succ_next Sys2Proof.core k hfirst).trans hrun, fun j hpos hj => ?_⟩
  obtain ⟨i, rfl⟩ := Nat.exists_eq_add_of_le' hpos
  obtain ⟨u, hu, hphase⟩ := hstates i hj
  exact ⟨u, (run_succ_next Sys2Proof.core i hfirst).trans hu, hphase⟩

end Sys2Proof.Machine
end

section
/-! Proofs about the tracker: what a fetch reads, how each command moves the cursor, what the sequencer's own commands
do, and how a sample tick begins and uses up its calls (44_tracker.md). -/

namespace Sys2Proof

theorem Instr.length_pos (i : Instr) : 0 < i.length := (Nat.succ_pos _).trans_eq (operandBytes_length i)

theorem encode_length (m : OpcodeMap) (i : Instr) : (encode m i).length = i.length := operandBytes_length i

end Sys2Proof

namespace Sys2Proof.Machine

/-! ### Fetching -/

/-- Byte `k` of the window is there when it and every byte before it exist. -/
theorem State.window_getElem?_eq_some_iff (s : State) (k : Nat) (b : Byte) :
    s.window[k]? = some b ↔
      k < 8 ∧ (∀ j ≤ k, (s.memRead1 (s.cursor + BitVec.ofNat 16 j)).isSome) ∧
        s.memRead1 (s.cursor + BitVec.ofNat 16 k) = some b := by
  rw [State.window_getElem?, Option.ite_none_right_eq_some, and_assoc]

/-- The window begins with at most eight bytes exactly when they lie at the cursor (20_memory.md R62). -/
theorem State.prefix_window_iff (s : State) {bytes : List Byte} (hlen : bytes.length ≤ 8) :
    bytes <+: s.window ↔
      ∀ k, k < bytes.length → s.memRead1 (s.cursor + BitVec.ofNat 16 k) = bytes[k]? := by
  rw [List.prefix_iff_getElem?]
  constructor
  · intro h k hk
    obtain ⟨-, -, hread⟩ := (s.window_getElem?_eq_some_iff k _).mp (h k hk)
    rw [hread, List.getElem?_eq_getElem hk]
  · intro h k hk
    have hread (j : Nat) (hj : j < bytes.length) :
        s.memRead1 (s.cursor + BitVec.ofNat 16 j) = some bytes[j] := by
      rw [h j hj, List.getElem?_eq_getElem hj]
    refine (s.window_getElem?_eq_some_iff k _).mpr ⟨by omega, fun j hj => ?_, hread k hk⟩
    rw [hread j (hj.trans_lt hk), Option.isSome_some]

/-- Settles O6: under a legal map the fetched command is the one whose encoding begins the window. -/
theorem fetchReadsTheBytesAtTheCursor : Obligations.FetchReadsTheBytesAtTheCursor := by
  intro s i hmap
  have hlen : (encode s.params.opcodeMap i).length ≤ 8 :=
    (encode_length _ i).le.trans (Format.length_le _)
  rw [← encode_length s.params.opcodeMap i, ← s.prefix_window_iff hlen, State.fetchInstr_ok_iff]
  simp only [decode_ok_iff hmap]
  exact exists_congr fun _ => eq_comm

/-- Settles O5: the window that decodes is the fetch of the step. -/
theorem stepRunsTheDecodedCommand : Obligations.StepRunsTheDecodedCommand := by
  intro s t i rest hburst hdecode hexec
  rw [step_burst hburst ((s.fetchInstr_ok_iff i).mpr ⟨rest, hdecode⟩), hexec]
  rfl

/-! ### The fetch sequence -/

theorem State.advance_advance (s : State) (m n : Nat) : (s.advance m).advance n = s.advance (m + n) := by
  simp [State.advance, BitVec.add_assoc, BitVec.ofNat_add]

@[simp] theorem State.advance_zero (s : State) : s.advance 0 = s := by
  simp [State.advance]

/-- The readable bytes from an address on do not depend on the cursor. -/
theorem State.advance_bytesFrom (s : State) (m n : Nat) (a : Word) :
    (s.advance m).bytesFrom n a = s.bytesFrom n a := by
  induction n generalizing a with
  | zero => rfl
  | succ n ih => simp only [State.bytesFrom, ih, State.memRead1_congr (State.advance_stream s m) rfl]

/-- The readable bytes from the cursor on, at most `n`; the window is eight of them. -/
def State.ahead (s : State) (n : Nat) : List Byte := s.bytesFrom n s.cursor

theorem State.ahead_eq_window (s : State) : s.ahead 8 = s.window := rfl

/-- `Fetch8` takes the first of the readable bytes and moves past it (44_tracker.md R203). -/
theorem State.fetch8_cases (s : State) (n : Nat) :
    (s.fetch8 = none ∧ s.ahead (n + 1) = []) ∨
    ∃ b, s.fetch8 = some (b, s.advance 1) ∧ s.ahead (n + 1) = b :: (s.advance 1).ahead n := by
  rw [State.fetch8, State.ahead, State.bytesFrom, State.ahead, State.advance_bytesFrom, State.advance_cursor]
  cases s.memRead1 s.cursor with
  | none => exact .inl ⟨rfl, rfl⟩
  | some b => exact .inr ⟨b, rfl, rfl⟩

/-- `Fetch16` takes the first two of the readable bytes, high byte first, and moves past them (44_tracker.md R204). -/
theorem State.fetch16_cases (s : State) (n : Nat) :
    (s.fetch16 = none ∧ (s.ahead (n + 2)).length < 2) ∨
    ∃ hi lo, s.fetch16 = some (wordOf hi lo, s.advance 2) ∧ s.ahead (n + 2) = hi :: lo :: (s.advance 2).ahead n := by
  have hfetch : s.fetch16 = (s.memRead2 s.cursor).map fun w => (w, s.advance 2) := rfl
  unfold State.memRead2 at hfetch
  rw [hfetch, State.ahead, State.bytesFrom, State.bytesFrom, State.ahead, State.advance_bytesFrom,
    State.advance_cursor]
  cases s.memRead1 s.cursor with
  | none => exact .inl ⟨rfl, Nat.zero_lt_two⟩
  | some hi =>
    cases s.memRead1 (s.cursor + 1#16) with
    | none => exact .inl ⟨rfl, Nat.one_lt_two⟩
    | some lo => exact .inr ⟨hi, lo, rfl, by simp [BitVec.add_assoc]⟩

/-- What a fetch makes of the decoder's answer over the bytes ahead: the command and the state moved past the `n`
bytes it took. -/
def State.fetched (s : State) (n : Nat) : Except Reject (Instr × List Byte) → Option (Instr × State)
  | .ok (i, _) => some (i, s.advance n)
  | .error _ => none

theorem State.fetchByteOperand_eq (s : State) (mk : Byte → Instr) (n : Nat) :
    s.fetchByteOperand mk = s.fetched 1 (takeByte mk (s.ahead (n + 1))) := by
  unfold State.fetchByteOperand
  obtain ⟨hfetch, hahead⟩ | ⟨b, hfetch, hahead⟩ := s.fetch8_cases n <;> rw [hfetch, hahead] <;> rfl

theorem State.fetchWordOperand_eq (s : State) (mk : Word → Instr) (n : Nat) :
    s.fetchWordOperand mk = s.fetched 2 (takeWord mk (s.ahead (n + 2))) := by
  unfold State.fetchWordOperand
  obtain ⟨hfetch, hshort⟩ | ⟨hi, lo, hfetch, hahead⟩ := s.fetch16_cases n
  · rw [hfetch, (takeWord_error_iff mk _).mpr (Nat.succ_lt_succ hshort)]
    rfl
  · rw [hfetch, hahead]
    rfl

/-- The four operands of SetADSRValues one after the other (44_tracker.md R225). -/
theorem State.fetchOperands_setADSRValues (s : State) (ch : Nibble) :
    s.fetchOperands ch .setADSRValues =
      s.fetched 7 (takeWordWordByteWord (.setADSRValues ch) (s.ahead 7)) := by
  have hmissing (h : (s.ahead 7).length < 7) :
      s.fetched 7 (takeWordWordByteWord (.setADSRValues ch) (s.ahead 7)) = none := by
    rw [(takeWordWordByteWord_error_iff _ _).mpr (Nat.succ_lt_succ h)]
    rfl
  unfold State.fetchOperands
  obtain ⟨hfetch, hshort⟩ | ⟨h1, l1, hfetch, ha⟩ := s.fetch16_cases 5
  · rw [hfetch, hmissing (hshort.trans (by decide))]
  simp only [hfetch]
  obtain ⟨hfetch, hshort⟩ | ⟨h2, l2, hfetch, hd⟩ := (s.advance 2).fetch16_cases 3
  · rw [hfetch, hmissing (ha ▸ Nat.add_lt_add_right (hshort.trans (by decide)) 2)]
  simp only [hfetch, State.advance_advance] at hd ⊢
  obtain ⟨hfetch, hnone⟩ | ⟨level, hfetch, hl⟩ := (s.advance 4).fetch8_cases 2
  · rw [hfetch, hmissing (by simp [ha, hd, hnone])]
  simp only [hfetch, State.advance_advance] at hl ⊢
  rw [State.fetchWordOperand_eq _ _ 0]
  obtain ⟨-, hshort⟩ | ⟨h3, l3, -, hr⟩ := (s.advance 5).fetch16_cases 0
  · rw [(takeWord_error_iff _ _).mpr (Nat.succ_lt_succ hshort),
      hmissing (by rw [ha, hd, hl]; exact Nat.add_lt_add_right hshort 5)]
    rfl
  · rw [ha, hd, hl, hr]
    simp only [takeWord, takeWordWordByteWord, State.fetched, State.advance_advance]

/-- The operand fetches of a command agree with the decoder's reading of the bytes ahead (44_tracker.md R210 to
R225). -/
theorem State.fetchOperands_eq (s : State) (ch : Nibble) (cmd : Command) :
    s.fetchOperands ch cmd = s.fetched (cmd.format.length - 1) (decodeOperands cmd ch (s.ahead 7)) := by
  cases cmd with
  | noAction | noteOff | endOfStream | softwareReset | resetOscillator =>
    exact congrArg (fun t => some (_, t)) s.advance_zero.symm
  | setWave | setVolume | setGlobalVolume | noteOn | syncOscillator | setADSR | setDuty | directExec =>
    exact s.fetchByteOperand_eq _ 6
  | setTempo | jumpInFile => exact s.fetchWordOperand_eq _ 5
  | setADSRValues => exact s.fetchOperands_setADSRValues ch

/-- Settles O8: the opcode byte is the window's first byte, and the operands agree format by format. -/
theorem fetchSequenceAgreesWithTheDecoder : Obligations.FetchSequenceAgreesWithTheDecoder := by
  intro s
  unfold State.fetchSequence State.fetchInstr
  rw [← State.ahead_eq_window]
  obtain ⟨hfetch, hahead⟩ | ⟨op, hfetch, hahead⟩ := s.fetch8_cases 7
  · rw [hfetch, hahead]
    rfl
  · rw [hahead, hfetch]
    simp only [State.fetchOperands_eq, decode]
    cases hdecode : decodeOperands (s.params.opcodeMap.command (cmdField op)) (chField op)
        ((s.advance 1).ahead 7) with
    | error e => cases e; rfl
    | ok r =>
      obtain ⟨i, rest⟩ := r
      obtain ⟨hcmd, -⟩ := decodeOperands_ok_iff.mp hdecode
      have hlen : 1 + ((s.params.opcodeMap.command (cmdField op)).format.length - 1) = i.length := by
        rw [← hcmd]
        exact Nat.add_sub_of_le i.length_pos
      simp only [State.fetched, State.advance_advance, hlen]

/-! ### The cursor -/

/-- Where a command leaves the cursor: JumpInFile at its operand, any other past its bytes (44_tracker.md R228). -/
theorem exec_cursor {i : Instr} {s t : State} (h : exec i s = .next t) :
    (∃ ch w, i = .jumpInFile ch w ∧ t.cursor = w) ∨
    ((∀ ch w, i ≠ .jumpInFile ch w) ∧ t.cursor = s.cursor + BitVec.ofNat 16 i.length) := by
  cases exec_effect h with
  | @hostOp _ op hop =>
    refine .inr ⟨?_, (KeepsTick.applyHostOp _ op).cursor⟩
    rintro ch w rfl
    cases hop
  | configure => exact .inr ⟨nofun, State.envConfigure_cursor ..⟩
  | jumpInFile ch w => exact .inl ⟨ch, w, rfl, rfl⟩
  | noAction | setTempo | endOfStream | directExec => exact .inr ⟨nofun, rfl⟩

/-- Settles O26: the length of a command is that of its encoding. -/
theorem commandsMoveTheCursorByTheirLength : Obligations.CommandsMoveTheCursorByTheirLength := by
  intro i s t h
  refine (exec_cursor h).imp_right fun ⟨hjump, hcursor⟩ => ⟨hjump, ?_⟩
  rw [hcursor, encode_length, BitVec.toNat_add, BitVec.toNat_ofNat, Nat.add_mod_mod]

/-- The cursor at the beginning of a sample tick moves by the wrap of a tempo firing alone (44_tracker.md R200). -/
theorem State.beginTick_cursor (s : State) :
    s.beginTick.cursor = s.cursor ∨
    (s.beginTick.cursor = 0#16 ∧ s.streamLen ≤ s.cursor.toNat ∧ s.beginTick.tempo.counter = 0#32) := by
  obtain ⟨-, h⟩ | ⟨-, -, h⟩ | ⟨-, -, h⟩ := s.beginTick_cases <;> rw [h]
  · exact .inl rfl
  · by_cases hend : s.streamLen ≤ s.cursor.toNat
    · exact .inr ⟨if_pos hend, hend, rfl⟩
    · exact .inl (if_neg hend)
  · exact .inl rfl

/-- Between ticks the cursor moves by the wrap of a tempo firing or by a Reset. -/
theorem State.acceptMoment_cursor (s : State) :
    s.acceptMoment.cursor = s.cursor ∨
    (s.acceptMoment.cursor = 0#16 ∧
      ((s.streamLen ≤ s.cursor.toNat ∧ s.acceptMoment.tempo.counter = 0#32) ∨
        ∃ m rest, s.inbox = m :: rest ∧ m.reset = true)) := by
  obtain ⟨-, h⟩ | ⟨m, rest, hin, ⟨hr, h⟩ | ⟨-, -, h⟩ | ⟨-, op, -, h⟩ | ⟨-, -, h⟩⟩ :=
    s.acceptMoment_cases <;> rw [h]
  · exact s.beginTick_cursor.imp_right fun ⟨hzero, hwrap⟩ => ⟨hzero, .inl hwrap⟩
  · exact .inr ⟨rfl, .inr ⟨m, rest, hin, hr⟩⟩
  · exact (State.beginTick_cursor { s with inbox := rest }).imp_right fun ⟨hzero, hwrap⟩ => ⟨hzero, .inl hwrap⟩
  · exact .inl (KeepsTick.applyHostOp _ op).cursor
  · exact .inl rfl

/-- Settles O30, by the three kinds of step. -/
theorem cursorChangesOnlyByFetchJumpWrapAndReset : Obligations.CursorChangesOnlyByFetchJumpWrapAndReset := by
  intro s t h hne
  obtain ⟨hp, rfl⟩ | ⟨hp, i, u, hf, he, rfl⟩ | ⟨-, hs⟩ := step_cases h
  · obtain hsame | hmoved := s.acceptMoment_cursor
    · exact absurd hsame hne
    · exact .inr ⟨hp, hmoved⟩
  · rw [State.settle_cursor]
    refine .inl ⟨hp, i, hf, ?_⟩
    obtain ⟨ch, w, rfl, rfl⟩ | ⟨-, hcursor⟩ := exec_cursor he
    · exact .inr ⟨ch, rfl⟩
    · exact .inl (by rw [hcursor, State.takeCall_cursor])
  · obtain ⟨_, _, _, -, rfl⟩ := synth_cases hs
    exact absurd rfl hne

/-! ### The sequencer's own commands -/

/-- Settles O11: the equations of the two commands. -/
theorem cursorCommandsChangeOnlyTheCursor : Obligations.CursorCommandsChangeOnlyTheCursor :=
  ⟨fun ch s => ⟨_, exec_noAction ch s, rfl, fun _ => rfl⟩,
    fun ch w s => ⟨_, exec_jumpInFile ch w s, rfl, fun _ => rfl⟩⟩

/-- Settles O18: the move past the opcode byte and the terminal halt. -/
theorem endOfStreamHaltsAndSignals : Obligations.EndOfStreamHaltsAndSignals := fun ch s =>
  ⟨_, exec_endOfStream ch s, rfl, fun _ => rfl⟩

/-- Settles O21: a count of 0 puts nothing in front of the outstanding calls. -/
theorem directExecMakesItsCommandsOutstanding : Obligations.DirectExecMakesItsCommandsOutstanding := by
  intro ch b s
  refine ⟨_, exec_directExec ch b s, rfl, fun _ => rfl, fun hzero => if_pos ?_, fun hne => if_neg fun hzero => ?_⟩
  · rw [hzero]
    rfl
  · exact hne (BitVec.eq_of_toNat_eq hzero)

/-- Settles O12: the count fits the compare value, and in the conversion's domain the formula's count is positive. -/
theorem setTempoArmsTheTempoClock : Obligations.SetTempoArmsTheTempoClock := by
  intro ch w s
  have hcompare : ((msToTicks s.params.sampleRate w).setWidth 32).toNat = (msToTicks s.params.sampleRate w).toNat :=
    BitVec.toNat_setWidth_of_le (by decide)
  refine ⟨_, exec_setTempo ch w s, rfl, fun _ => rfl, rfl, hcompare, fun hone hthousand hlow hhigh => ?_⟩
  obtain ⟨hformula, -⟩ := msToTicksFollowsItsFormula s.params.sampleRate w hone hthousand
  rw [hcompare, hformula hlow hhigh, Nat.sub_add_cancel hlow]

/-- Settles O15: the copy is a change of the addressed voice, and without the named voice there is none. -/
theorem syncOscillatorCopiesThePhase : Obligations.SyncOscillatorCopiesThePhase := by
  intro ch b s
  have hexists {source : Voice} (h : s.voices[b.toNat % 16]? = some source) : ¬ s.numVoices ≤ b.toNat % 16 :=
    Nat.not_le.mpr (List.getElem?_eq_some_iff.mp h).1
  refine ⟨_, exec_syncOscillator ch b s, ?_⟩
  rw [sourceIndex_eq]
  obtain ⟨hbeyond, h⟩ | ⟨source, hsource, h⟩ :=
    (s.advance 2).syncOscillators_cases ch.toNat (b.toNat % 16) <;> rw [h]
  · exact ⟨fun _ hsource => absurd hbeyond (hexists hsource), fun _ => ⟨rfl, fun _ => rfl⟩⟩
  · refine ⟨fun source' hsource' => ?_, fun hbeyond => absurd hbeyond (hexists hsource)⟩
    cases hsource.symm.trans hsource'
    exact writesVoice_updateVoice ..

/-- What the preset table holds after `EnvConfigure` (42_envelope.md R144). -/
theorem State.envConfigure_getElem? (s : State) (k : Nat) (a d : Word) (l : Byte) (r : Word) (j : Nat) :
    (s.envConfigure k a d l r).presets[j]? =
      if k = j + 1 ∧ j < s.numPresets then some (configuredPreset s.params.sampleRate a d l r)
      else s.presets[j]? := by
  obtain ⟨hk, h⟩ | ⟨hone, hle, h⟩ := s.envConfigure_cases k a d l r <;> rw [h]
  · rw [if_neg (by omega)]
  · rw [List.getElem?_set]
    by_cases hj : k - 1 = j
    · rw [if_pos hj, if_pos (by unfold State.numPresets at hle; omega), if_pos (by omega)]
    · rw [if_neg hj, if_neg (by omega)]

/-- `EnvConfigure` writes the preset table alone. -/
theorem State.envConfigure_eq (s : State) (k : Nat) (a d : Word) (l : Byte) (r : Word) :
    s.envConfigure k a d l r = { s with presets := (s.envConfigure k a d l r).presets } := by
  unfold State.envConfigure
  split <;> rfl

/-- Settles O22: the preset that the voice selects is configured; preset 0 stands for a bypassed or missing voice. -/
theorem setADSRValuesRewritesTheSelectedPreset : Obligations.SetADSRValuesRewritesTheSelectedPreset := by
  intro ch a d level r s
  have hrun := (KeepsRun.advance s 8).trans (.envConfigure _
    (((s.voices[ch.toNat]?).map fun v => v.env.type.toNat).getD 0) a d level r)
  refine ⟨_, exec_setADSRValues ch a d level r s, State.envConfigure_eq .., hrun.keepsSupplied.keepsMemory,
    hrun.numPresets, fun k v hv htype hk => ?_, fun k hother => ?_⟩
  · rw [State.envConfigure_getElem?, hv]
    exact if_pos ⟨htype, hk⟩
  · rw [State.envConfigure_getElem?]
    refine if_neg fun ⟨hselected, _⟩ => ?_
    cases hv : s.voices[ch.toNat]? with
    | none => simp [hv] at hselected
    | some v =>
      rw [hv] at hselected
      exact hother v hv hselected

/-! ### The beginning of a sample tick -/

/-- A SampleTick begins the tick whether it is listed or arrives by itself (60_exceptions.md R245, log 15). -/
theorem State.acceptMoment_sampleTick {s : State} {rest : List Moment}
    (h : s.inbox = [] ∧ rest = [] ∨ s.inbox = { reset := false, event := some .sampleTick } :: rest) :
    s.acceptMoment = ({ s with inbox := rest } : State).beginTick := by
  obtain ⟨hin, rfl⟩ | hin := h
  · have hself : ({ s with inbox := [] } : State) = s := by rw [← hin]
    rw [hself, State.acceptMoment, hin]
  · rw [State.acceptMoment, hin]
    rfl

/-- Settles O37: the tempo clock counts, and its two outcomes exclude each other. -/
theorem sampleTickBeginsWithTheTempoClock : Obligations.SampleTickBeginsWithTheTempoClock := by
  intro s rest hidle harrives hrunning hvoices
  rw [step_idle hidle, State.acceptMoment_sampleTick harrives]
  obtain ⟨hhalted, -⟩ | ⟨-, hfires, h⟩ | ⟨-, hcounts, h⟩ := ({ s with inbox := rest } : State).beginTick_cases
  · exact absurd (hrunning.symm.trans hhalted) nofun
  · refine ⟨fun _ => ?_, fun hcounts => absurd hfires (Nat.not_le.mpr hcounts)⟩
    have hburst : ¬ ({ s with inbox := rest } : State).numVoices = 0 := Nat.pos_iff_ne_zero.mp hvoices
    rw [h, if_neg hburst]
    rfl
  · exact ⟨fun hfires => absurd hfires (Nat.not_le.mpr hcounts), fun _ => congrArg _ h⟩

/-- Settles O29: the beginning of a tick leaves a halted machine alone. -/
theorem haltedIgnoresSampleTicks : Obligations.HaltedIgnoresSampleTicks := by
  intro s hidle hhalted
  have hbegin (rest : List Moment) : ({ s with inbox := rest } : State).beginTick = { s with inbox := rest } :=
    if_pos hhalted
  rw [step_idle hidle]
  refine ⟨fun hin => ?_, fun rest hin => ?_⟩
  · rw [State.acceptMoment_sampleTick (.inl ⟨hin, rfl⟩), hbegin, ← hin]
  · rw [State.acceptMoment_sampleTick (.inr hin), hbegin]

/-! ### The outstanding calls -/

/-- DirectExec alone among the commands writes the outstanding calls (44_tracker.md R224). -/
theorem exec_calls {i : Instr} {s t : State} (hi : i.command ≠ .directExec) (h : exec i s = .next t) :
    t.slots = s.slots ∧ t.direct = s.direct := by
  cases exec_effect h with
  | @hostOp _ op _ =>
    have hkeep := KeepsTick.applyHostOp (s.advance i.length) op
    exact ⟨hkeep.slots, hkeep.direct⟩
  | configure => exact ⟨State.envConfigure_slots .., State.envConfigure_direct ..⟩
  | directExec => exact absurd rfl hi
  | noAction | setTempo | endOfStream | jumpInFile => exact ⟨rfl, rfl⟩

/-- No call is outstanding exactly when both loops are over: a DirectExec loop that runs has a call left. -/
theorem State.LoopsLegal.outstanding_eq_zero_iff {s : State} (h : s.LoopsLegal) :
    s.outstanding = 0 ↔ s.slots = 0 ∧ s.direct = [] := by
  rw [State.outstanding, Nat.add_eq_zero_iff]
  refine and_congr_right fun _ => ?_
  cases hd : s.direct with
  | nil => simp
  | cons k rest =>
    have hk := h.counts k (by simp [hd])
    simp only [List.sum_cons, reduceCtorEq, iff_false]
    omega

/-- A call is taken from the DirectExec loops if one is running (44_tracker.md R224). -/
theorem State.LoopsLegal.takeCall_sum {s : State} (h : s.LoopsLegal) :
    s.takeCall.direct.sum = s.direct.sum - 1 := by
  unfold State.takeCall
  split
  next hd => simp [hd]
  next k rest hd =>
    have hk := h.counts k (by simp [hd])
    simp only [hd, List.sum_cons]
    split
    · omega
    · rw [List.sum_cons]
      omega

/-- Taking a call uses up one of those outstanding. -/
theorem State.LoopsLegal.takeCall_outstanding {s : State} (h : s.LoopsLegal) (hcalls : s.outstanding ≠ 0) :
    s.takeCall.outstanding + 1 = s.outstanding := by
  unfold State.outstanding at *
  rw [h.takeCall_sum]
  cases hd : s.direct with
  | nil =>
    have hslots : s.takeCall.slots = s.slots - 1 := by rw [State.takeCall, hd]
    rw [hd, List.sum_nil] at hcalls
    rw [hslots, List.sum_nil]
    omega
  | cons k rest =>
    have hslots : s.takeCall.slots = s.slots := by rw [State.takeCall, hd]
    have hk := h.counts k (by simp [hd])
    rw [hslots, List.sum_cons]
    omega

theorem State.TickLegal.outstanding_ne_zero {s : State} (h : s.TickLegal) (hburst : s.tickPhase = .burst) :
    s.outstanding ≠ 0 := by
  obtain ⟨hcalls, -⟩ := id h
  rw [Ne, h.loopsLegal.outstanding_eq_zero_iff]
  simpa [State.burstDone] using hcalls hburst

/-- A running machine keeps its outstanding calls and goes on by their number (44_tracker.md R200). -/
theorem State.LoopsLegal.settle_running {s : State} (h : s.LoopsLegal) (hrunning : s.halted = false) :
    s.settle = { s with tickPhase := if s.outstanding = 0 then .synth else .burst } := by
  obtain ⟨hhalted, -⟩ | ⟨-, hslots, hdirect, hs⟩ | ⟨-, hcalls, hs⟩ := s.settle_cases
  · exact absurd (hrunning.symm.trans hhalted) nofun
  · rw [hs, if_pos (h.outstanding_eq_zero_iff.mpr ⟨hslots, hdirect⟩)]
  · rw [hs, if_neg (mt h.outstanding_eq_zero_iff.mp hcalls)]

theorem pushCalls_sum (n : Nat) (direct : List Nat) : (pushCalls n direct).sum = n + direct.sum := by
  unfold pushCalls
  split
  next hn => rw [hn, Nat.zero_add]
  next => rw [List.sum_cons]

/-- EndOfStream halts (44_tracker.md R217), and no other command does. -/
theorem exec_halted_iff {i : Instr} {s t : State} (hrunning : s.halted = false) (h : exec i s = .next t) :
    t.halted = true ↔ i.command = .endOfStream := by
  constructor
  · intro hhalted
    obtain hsame | ⟨-, ch, rfl⟩ := exec_halted h
    · exact absurd (hhalted.symm.trans (hsame.trans hrunning)) nofun
    · rfl
  · intro hi
    cases i with
    | endOfStream ch => cases h; rfl
    | _ => cases hi

/-- Settles O40: a command takes its call, DirectExec puts its count in front, and the tick goes on by what is left. -/
theorem eachCommandUsesOneOutstandingCall : Obligations.EachCommandUsesOneOutstandingCall := by
  intro s t i hlegal hburst hfetch hstep
  obtain ⟨-, htick⟩ := s.legal_iff.mp hlegal
  have hrunning : s.halted = false := by
    obtain ⟨-, -, hidle, -⟩ := id htick
    exact Bool.eq_false_iff.mpr fun hhalted => absurd (hburst.symm.trans (hidle hhalted)) nofun
  obtain ⟨u, he⟩ := exec_completes i s.takeCall
  rw [step_burst hburst hfetch, he] at hstep
  cases hstep
  have htaken := htick.loopsLegal.takeCall
  have hhalted_iff := exec_halted_iff (s.takeCall_halted.trans hrunning) he
  have hsettle (hne : i.command ≠ .endOfStream) :
      u.settle = { u with tickPhase := if u.outstanding = 0 then .synth else .burst } :=
    (htaken.exec he).settle_running (Bool.eq_false_iff.mpr (mt hhalted_iff.mp hne))
  refine ⟨fun hend => ?_, fun hne => ?_, fun hne hi => ?_, ?_⟩
  · have hhalt : u.settle = u.inTick .idle 0 [] := if_pos (hhalted_iff.mpr hend)
    rw [hhalt]
    exact ⟨rfl, rfl⟩
  · rw [hsettle hne]
    show ((if u.outstanding = 0 then TickPhase.synth else .burst) = _ ↔ u.outstanding = 0) ∧
      ((if u.outstanding = 0 then TickPhase.synth else .burst) = _ ↔ u.outstanding ≠ 0)
    split <;> simp [*]
  · obtain ⟨hslots, hdirect⟩ := exec_calls hi he
    rw [← htick.loopsLegal.takeCall_outstanding (htick.outstanding_ne_zero hburst), hsettle hne]
    show u.slots + u.direct.sum + 1 = _
    rw [hslots, hdirect]
    rfl
  · rintro ch b rfl
    rw [hsettle nofun]
    cases he
    refine ⟨rfl, ?_⟩
    show 0 + (pushCalls b.toNat s.takeCall.direct).sum = _
    rw [pushCalls_sum, htick.loopsLegal.takeCall_sum]
    omega

end Sys2Proof.Machine
end

section
/-! Proofs about a sample tick that never ends: what the recursive form has left to do at every point of a burst, and
that a burst with no end of it goes on step by step (44_tracker.md R226, 70_reset_and_hazards.md R283, log 16). -/

namespace Sys2Proof.Machine

/-! ### One part of a tick after another -/

/-- Goes on from the state that a part of a tick answers. -/
def andThen {α β : Type} (r : TickResult α) (next : α → TickResult β) : TickResult β :=
  match r with
  | some (.next t) => next t
  | some (.fault f) => some (.fault f)
  | some (.refused f) => some (.refused f)
  | none => none

theorem andThen_assoc {α β γ : Type} (r : TickResult α) (f : α → TickResult β) (g : β → TickResult γ) :
    andThen (andThen r f) g = andThen r fun t => andThen (f t) g := by
  match r with
  | none | some (.next _) | some (.fault _) | some (.refused _) => rfl

/-- `r'` answers what `r` does wherever `r` completes. -/
def Extends {α : Type} (r' r : TickResult α) : Prop := ∀ o, r = some o → r' = some o

theorem Extends.refl {α : Type} (r : TickResult α) : Extends r r := fun _ h => h

theorem Extends.eq_none {α : Type} {r r' : TickResult α} (h : Extends r' r) (hnone : r' = none) : r = none :=
  Option.eq_none_iff_forall_ne_some.mpr fun o ho => by simp [h o ho] at hnone

theorem Extends.andThen {α β : Type} {r r' : TickResult α} {f f' : α → TickResult β} (h : Extends r' r)
    (hnext : ∀ t, Extends (f' t) (f t)) : Extends (andThen r' f') (andThen r f) := by
  match r, h with
  | none, _ => exact nofun
  | some (.next t), h => rw [h _ rfl]; exact hnext t
  | some (.fault _), h | some (.refused _), h => rw [h _ rfl]; exact .refl _

/-! ### More fuel -/

theorem repeatCalls_succ (call : State → TickResult (State × Bool)) (n : Nat) (s : State) :
    repeatCalls call (n + 1) s =
      if s.halted then some (.next s) else andThen (call s) fun r => repeatCalls call n r.1 := by
  rw [repeatCalls]
  split
  · rfl
  · match call s with
    | none | some (.next _) | some (.fault _) | some (.refused _) => rfl

theorem burstCalls_succ (call : State → TickResult (State × Bool)) (n : Nat) (s : State) :
    burstCalls call (n + 1) s =
      andThen (call s) fun r => if r.1.halted || r.2 then some (.next r.1) else burstCalls call n r.1 := by
  rw [burstCalls]
  match call s with
  | none | some (.next _) | some (.fault _) | some (.refused _) => rfl

section
variable {call call' : State → TickResult (State × Bool)} (hcall : ∀ s, Extends (call' s) (call s))
include hcall

theorem repeatCalls_extends (n : Nat) (s : State) : Extends (repeatCalls call' n s) (repeatCalls call n s) := by
  induction n generalizing s with
  | zero => exact .refl _
  | succ n ih =>
    rw [repeatCalls_succ, repeatCalls_succ]
    split
    · exact .refl _
    · exact (hcall s).andThen fun r => ih r.1

theorem burstCalls_extends (n : Nat) (s : State) : Extends (burstCalls call' n s) (burstCalls call n s) := by
  induction n generalizing s with
  | zero => exact .refl _
  | succ n ih =>
    rw [burstCalls_succ, burstCalls_succ]
    refine (hcall s).andThen fun r => ?_
    split
    · exact .refl _
    · exact ih r.1

end

theorem fetchExecute_directExec_andThen {s : State} {ch : Nibble} {b : Byte}
    (hf : s.fetchInstr = .ok (.directExec ch b)) (fuel : Nat) :
    fetchExecute (fuel + 1) s =
      andThen (repeatCalls (fetchExecute fuel) b.toNat (s.advance 2)) fun t => some (.next (t, true)) := by
  rw [fetchExecute_directExec hf]
  match repeatCalls (fetchExecute fuel) b.toNat (s.advance 2) with
  | none | some (.next _) | some (.fault _) | some (.refused _) => rfl

/-- A call that completes does so with more fuel too. -/
theorem fetchExecute_extends (fuel : Nat) (s : State) :
    Extends (fetchExecute (fuel + 1) s) (fetchExecute fuel s) := by
  induction fuel generalizing s with
  | zero => exact nofun
  | succ fuel ih =>
    cases hf : s.fetchInstr with
    | error r => rw [fetchExecute_error hf, fetchExecute_error hf]; exact .refl _
    | ok i =>
      by_cases hi : i.command = .directExec
      · cases i with
        | directExec ch b =>
          rw [fetchExecute_directExec_andThen hf, fetchExecute_directExec_andThen hf]
          exact (repeatCalls_extends ih _ _).andThen fun _ => .refl _
        | _ => cases hi
      · obtain ⟨t, he⟩ := exec_completes i s
        rw [fetchExecute_command hi hf he, fetchExecute_command hi hf he]
        exact .refl _

/-! ### What is left of a burst -/

/-- What the recursive form has left to do in a burst with these calls outstanding: the DirectExec loops, innermost
first, and then the burst's own loop (44_tracker.md R200, R224). -/
def remainingCalls (call : State → TickResult (State × Bool)) (slots : Nat) : List Nat → State → TickResult State
  | [], s => burstCalls call slots s
  | k :: rest, s => andThen (repeatCalls call k s) (remainingCalls call slots rest)

theorem remainingCalls_extends {call call' : State → TickResult (State × Bool)}
    (hcall : ∀ s, Extends (call' s) (call s)) (slots : Nat) (direct : List Nat) (s : State) :
    Extends (remainingCalls call' slots direct s) (remainingCalls call slots direct s) := by
  induction direct generalizing s with
  | nil => exact burstCalls_extends hcall slots s
  | cons k rest ih => exact (repeatCalls_extends hcall k s).andThen ih

section
variable (call : State → TickResult (State × Bool))

theorem repeatCalls_halted (n : Nat) {s : State} (h : s.halted = true) :
    repeatCalls call n s = some (.next s) := by
  cases n with
  | zero => rfl
  | succ n => rw [repeatCalls_succ, if_pos h]

/-- A halted machine leaves every DirectExec loop (44_tracker.md R217, R224). -/
theorem remainingCalls_halted (direct : List Nat) {s : State} (h : s.halted = true) :
    remainingCalls call 0 direct s = some (.next s) := by
  induction direct with
  | nil => rfl
  | cons k rest ih => rw [remainingCalls, repeatCalls_halted call k h]; exact ih

theorem remainingCalls_unless_halted (direct : List Nat) (s : State) :
    (if s.halted then some (.next s) else remainingCalls call 0 direct s) = remainingCalls call 0 direct s := by
  split
  next h => rw [remainingCalls_halted call direct h]
  next => rfl

theorem remainingCalls_pushCalls (slots n : Nat) (direct : List Nat) (s : State) :
    remainingCalls call slots (pushCalls n direct) s =
      andThen (repeatCalls call n s) (remainingCalls call slots direct) := by
  cases n <;> rfl

/-- What is left of a burst is one call and then, unless it halts, the calls outstanding after it; a DirectExec
drops those of the burst's own loop (44_tracker.md R200, R224). -/
theorem remainingCalls_first {u : State} (hloops : u.LoopsLegal) (hcalls : u.outstanding ≠ 0) {s : State}
    (hrunning : s.halted = false) :
    remainingCalls call u.slots u.direct s = andThen (call s) fun r =>
      if r.1.halted then some (.next r.1)
      else remainingCalls call (if r.2 then 0 else u.takeCall.slots) u.takeCall.direct r.1 := by
  cases hd : u.direct with
  | nil =>
    cases hs : u.slots with
    | zero => exact absurd (hloops.outstanding_eq_zero_iff.mpr ⟨hs, hd⟩) hcalls
    | succ n =>
      have htake : u.takeCall = { u with slots := n } := by simp [State.takeCall, hd, hs]
      rw [remainingCalls, burstCalls_succ, htake, hd]
      refine congrArg _ (funext fun r => ?_)
      obtain ⟨t, more⟩ := r
      cases t.halted <;> cases more <;> rfl
  | cons k rest =>
    obtain ⟨n, rfl⟩ : ∃ n, k = n + 1 := Nat.exists_eq_add_of_le' (hloops.counts k (by simp [hd])).1
    have hs : u.slots = 0 := hloops.nested (by simp [hd])
    have htake : u.takeCall = { u with direct := pushCalls n rest } := by
      rw [State.takeCall, hd]
      cases n <;> rfl
    rw [remainingCalls, repeatCalls_succ, if_neg (by simp [hrunning]), andThen_assoc, htake, hs]
    refine congrArg _ (funext fun r => ?_)
    rw [ite_self, remainingCalls_unless_halted, remainingCalls_pushCalls]

end

/-! ### An endless burst -/

/-- Taking a call writes nothing beside the book-keeping of the tick. -/
theorem State.takeCall_inTick (s : State) (phase : TickPhase) (slots : Nat) (direct : List Nat) :
    s.takeCall.inTick phase slots direct = s.inTick phase slots direct := by
  rw [State.takeCall_eq]
  rfl

/-- No fuel completes what is left of the burst. -/
def State.NeverEnds (u : State) : Prop :=
  ∀ fuel, remainingCalls (fetchExecute fuel) u.slots u.direct (u.inTick .idle 0 []) = none

/-- A point of a burst that never ends. -/
structure State.EndlessBurst (u : State) : Prop where
  burst : u.tickPhase = .burst
  running : u.halted = false
  loops : u.LoopsLegal
  endless : u.NeverEnds

theorem State.NeverEnds.outstanding_ne_zero {u : State} (h : u.NeverEnds) (hloops : u.LoopsLegal) :
    u.outstanding ≠ 0 := by
  intro hzero
  obtain ⟨hslots, hdirect⟩ := hloops.outstanding_eq_zero_iff.mp hzero
  have hdone := h 0
  rw [hslots, hdirect] at hdone
  cases hdone

/-- From a running state with an endless rest the burst goes on. -/
theorem State.NeverEnds.settle {u : State} (h : u.NeverEnds) (hrunning : u.halted = false)
    (hloops : u.LoopsLegal) : u.settle.EndlessBurst := by
  rw [hloops.settle_running hrunning, if_neg (h.outstanding_ne_zero hloops)]
  exact ⟨rfl, hrunning, hloops.congr rfl rfl rfl, h⟩

/-- An endless rest is a call and an endless rest after it, unless the call halts. -/
theorem State.EndlessBurst.after_call {u : State} (h : u.EndlessBurst) (fuel : Nat) :
    (andThen (fetchExecute fuel (u.inTick .idle 0 [])) fun r =>
      if r.1.halted then some (.next r.1)
      else remainingCalls (fetchExecute fuel) (if r.2 then 0 else u.takeCall.slots) u.takeCall.direct r.1) =
      none :=
  (remainingCalls_first (fetchExecute fuel) h.loops (h.endless.outstanding_ne_zero h.loops)
    (s := u.inTick .idle 0 []) h.running).symm.trans (h.endless fuel)

/-- A fetch that overruns the stream would end the tick (20_memory.md R68). -/
theorem State.EndlessBurst.fetches {u : State} (h : u.EndlessBurst) : ∃ i, u.fetchInstr = .ok i := by
  cases hf : u.fetchInstr with
  | ok i => exact ⟨i, rfl⟩
  | error r =>
    have hfirst := h.after_call 1
    rw [fetchExecute_error ((u.inTick_fetchInstr ..).trans hf)] at hfirst
    cases hfirst

/-- A DirectExec in an endless burst: its loop and what follows it never end (44_tracker.md R226). -/
theorem State.EndlessBurst.after_directExec {u v : State} {ch : Nibble} {b : Byte} (h : u.EndlessBurst)
    (hf : u.fetchInstr = .ok (.directExec ch b)) (he : exec (.directExec ch b) u.takeCall = .next v) :
    v.NeverEnds := by
  intro fuel
  have hloop : andThen (repeatCalls (fetchExecute fuel) b.toNat ((u.inTick .idle 0 []).advance 2))
      (remainingCalls (fetchExecute (fuel + 1)) 0 u.takeCall.direct) = none := by
    have hfirst := h.after_call (fuel + 1)
    rw [fetchExecute_directExec_andThen ((u.inTick_fetchInstr ..).trans hf), andThen_assoc] at hfirst
    exact (congrArg _ (funext fun t => (remainingCalls_unless_halted ..).symm)).trans hfirst
  cases he
  show remainingCalls (fetchExecute fuel) 0 (pushCalls b.toNat u.takeCall.direct)
    ((u.takeCall.inTick .idle 0 []).advance 2) = none
  rw [u.takeCall_inTick, remainingCalls_pushCalls]
  exact ((Extends.refl _).andThen (remainingCalls_extends (fetchExecute_extends fuel) 0 _)).eq_none hloop

/-- Any other command in an endless burst: it does not halt, and what follows it never ends. -/
theorem State.EndlessBurst.after_command {u v : State} {i : Instr} (h : u.EndlessBurst)
    (hf : u.fetchInstr = .ok i) (hi : i.command ≠ .directExec) (he : exec i u.takeCall = .next v) :
    v.halted = false ∧ v.NeverEnds := by
  have hrest := exec_inTick hi he .idle 0 []
  rw [State.takeCall_inTick] at hrest
  have hfirst (fuel : Nat) : (if v.halted then some (.next (v.inTick .idle 0 []))
      else remainingCalls (fetchExecute (fuel + 1)) v.slots v.direct (v.inTick .idle 0 [])) = none := by
    obtain ⟨hslots, hdirect⟩ := exec_calls hi he
    rw [hslots, hdirect]
    have hfirst := h.after_call (fuel + 1)
    rw [fetchExecute_command hi ((u.inTick_fetchInstr ..).trans hf) hrest] at hfirst
    exact hfirst
  have hrunning : ¬ v.halted = true := fun hhalted => by simpa [hhalted] using hfirst 0
  refine ⟨Bool.eq_false_iff.mpr hrunning, fun fuel => ?_⟩
  exact (remainingCalls_extends (fetchExecute_extends fuel) _ _ _).eq_none
    ((if_neg hrunning).symm.trans (hfirst fuel))

/-- A command that does not halt outputs nothing (60_exceptions.md R247). -/
theorem exec_outputs {i : Instr} {s t : State} (h : exec i s = .next t) (hrunning : t.halted = false) :
    t.outputs = s.outputs := by
  cases exec_effect h with
  | @hostOp _ op _ => exact (KeepsTick.applyHostOp _ op).outputs
  | configure => exact State.envConfigure_outputs ..
  | endOfStream ch => cases hrunning
  | noAction | setTempo | jumpInFile | directExec => rfl

/-- One step of an endless burst. -/
theorem State.EndlessBurst.step {u : State} (h : u.EndlessBurst) :
    ∃ t, step u = .next t ∧ t.EndlessBurst ∧ t.outputs = u.outputs := by
  obtain ⟨i, hf⟩ := h.fetches
  obtain ⟨v, he⟩ := exec_completes i u.takeCall
  have hafter : v.halted = false ∧ v.NeverEnds := by
    by_cases hi : i.command = .directExec
    · cases i with
      | directExec ch b =>
        refine ⟨?_, h.after_directExec hf he⟩
        cases he
        exact u.takeCall_halted.trans h.running
      | _ => cases hi
    · exact h.after_command hf hi he
  obtain ⟨hrunning, hendless⟩ := hafter
  refine ⟨v.settle, ?_, hendless.settle hrunning (h.loops.takeCall.exec he), ?_⟩
  · rw [step_burst h.burst hf, he]
    rfl
  · rw [State.settle_outputs, exec_outputs he hrunning, State.takeCall_outputs]

/-- Every number of steps stays in an endless burst. -/
theorem State.EndlessBurst.run {u : State} (h : u.EndlessBurst) (k : Nat) :
    ∃ t : State, Host.Core.run Sys2Proof.core k u = .next t ∧ t.EndlessBurst ∧ t.outputs = u.outputs := by
  induction k generalizing u with
  | zero => exact ⟨u, run_zero Sys2Proof.core u, h, rfl⟩
  | succ k ih =>
    obtain ⟨v, hstep, hv, hout⟩ := h.step
    obtain ⟨t, hrun, ht, hout'⟩ := ih hv
    exact ⟨t, (run_succ_next Sys2Proof.core k hstep).trans hrun, ht, hout'.trans hout⟩

/-- A tick that no fuel completes begins an endless burst, and outputs nothing as it does. -/
theorem State.Resting.beginTick_endless {s : State} (hs : s.Resting) (hendless : ∀ fuel, sampleTick fuel s = none) :
    s.beginTick.EndlessBurst ∧ s.beginTick.outputs = s.outputs := by
  have hh : ¬ s.halted = true := fun hhalted => by simpa [sampleTick_halted hhalted] using hendless 0
  have htempo (fuel : Nat) : tempoTick fuel s = none := by
    simpa [sampleTick_running hh] using hendless fuel
  obtain ⟨-, hbegin⟩ | ⟨tempo, hdone, -⟩ := tempoTick_cases hh 0
  · have hnever : (s.tempoFired.inTick .burst s.numVoices []).NeverEnds := fun fuel => by
      obtain ⟨hcalls, -⟩ | ⟨tempo, hdone, -⟩ := tempoTick_cases hh fuel
      · have hfired : s.tempoFired.Resting := congrArg State.tempoFired hs
        show burstCalls _ s.numVoices (s.tempoFired.inTick .idle 0 []) = none
        rw [← hfired, ← hcalls, htempo fuel]
      · cases (htempo fuel).symm.trans hdone
    have hloops : (s.tempoFired.inTick .burst s.numVoices []).LoopsLegal := ⟨le_rfl, nofun, nofun⟩
    rw [hbegin]
    exact ⟨hnever.settle (Bool.eq_false_iff.mpr hh) hloops, State.settle_outputs _⟩
  · cases (htempo 0).symm.trans hdone

/-- Settles O42: the first step begins the burst, and no step leaves it. -/
theorem endlessTickStaysInTheBurst : Obligations.EndlessTickStaysInTheBurst := by
  intro s hidle hslots hdirect hinbox hendless k
  have hresting : s.Resting := by rw [State.Resting, State.inTick, ← hidle, ← hslots, ← hdirect]
  have hfirst : step s = .next s.beginTick := by rw [step_idle hidle, State.acceptMoment, hinbox]
  obtain ⟨hburst, hbegin⟩ := hresting.beginTick_endless hendless
  obtain ⟨t, hrun, ht, hout⟩ := hburst.run k
  exact ⟨t, (run_succ_next Sys2Proof.core k hfirst).trans hrun, ht.burst, hout.trans hbegin⟩

end Sys2Proof.Machine
end

section
/-! Proofs about the exceptions chapter: no command stops, where the output events come from, and how the operations
of the host port act (60_exceptions.md R240, R247, R248). -/

namespace Sys2Proof.Machine

/-- Settles O23, command by command: `exec_completes` has the next state that each one answers. -/
theorem everyCommandCompletes : Obligations.EveryCommandCompletes := exec_completes

/-! ### The output events -/

theorem command_ne_endOfStream_of_hostOpOf {i : Instr} {op : HostOp} (h : hostOpOf i = some op) :
    i.command ≠ .endOfStream := by
  cases i with
  | endOfStream => cases h
  | _ => exact nofun

/-- Of the commands EndOfStream alone outputs, running or halted (60_exceptions.md R247). -/
theorem exec_outputs_eq {i : Instr} {s t : State} (h : exec i s = .next t) :
    t.outputs = if i.command = .endOfStream then .streamEnd :: s.outputs else s.outputs := by
  cases exec_effect h with
  | @hostOp _ op hop =>
    rw [if_neg (command_ne_endOfStream_of_hostOpOf hop)]
    exact (KeepsTick.applyHostOp _ op).outputs
  | configure => exact State.envConfigure_outputs ..
  | noAction | setTempo | endOfStream | jumpInFile | directExec => rfl

theorem State.beginTick_outputs (s : State) : s.beginTick.outputs = s.outputs := by
  obtain ⟨-, h⟩ | ⟨-, -, h⟩ | ⟨-, -, h⟩ := s.beginTick_cases <;> rw [h]

/-- Nothing that arrives between ticks outputs, a Reset neither (60_exceptions.md R247). -/
theorem State.acceptMoment_outputs (s : State) : s.acceptMoment.outputs = s.outputs := by
  obtain ⟨-, h⟩ | ⟨_, _, -, ⟨-, h⟩ | ⟨-, -, h⟩ | ⟨-, op, -, h⟩ | ⟨-, -, h⟩⟩ := s.acceptMoment_cases <;> rw [h]
  · exact s.beginTick_outputs
  · rw [State.hardReset_eq]
  · exact State.beginTick_outputs _
  · exact (KeepsTick.applyHostOp _ op).outputs

/-- Settles O33, by the three kinds of step. -/
theorem outputsComeFromSynthAndEndOfStream : Obligations.OutputsComeFromSynthAndEndOfStream := by
  intro s t h
  obtain ⟨hp, rfl⟩ | ⟨hp, i, u, hf, he, rfl⟩ | ⟨hp, hs⟩ := step_cases h <;> rw [hp]
  · exact ⟨nofun, nofun, fun _ => s.acceptMoment_outputs⟩
  · refine ⟨nofun, fun _ j hj => ?_, nofun⟩
    cases hf.symm.trans hj
    rw [State.settle_outputs, exec_outputs_eq he, State.takeCall_outputs]
  · obtain ⟨_, _, _, -, rfl⟩ := synth_cases hs
    exact ⟨fun _ => ⟨_, rfl⟩, nofun, nofun⟩

/-! ### The host port -/

/-- The state with its cursor and its coming moments replaced, the two fields in which a command and a host
operation between ticks differ (60_exceptions.md R248). -/
def State.placed (s : State) (cursor : Word) (inbox : List Moment) : State :=
  { s with cursor := cursor, inbox := inbox }

section
variable (s : State) (cursor : Word) (inbox : List Moment)

theorem State.placed_updateVoice (c : Nat) (f : Voice → Voice) :
    (s.placed cursor inbox).updateVoice c f = (s.updateVoice c f).placed cursor inbox := by
  unfold State.updateVoice State.placed
  dsimp only
  split <;> rfl

theorem State.placed_envConfigure (k : Nat) (a d : Word) (l : Byte) (r : Word) :
    (s.placed cursor inbox).envConfigure k a d l r = (s.envConfigure k a d l r).placed cursor inbox := by
  simp only [State.envConfigure, apply_ite (State.placed · cursor inbox)]
  rfl

/-- No host operation reads or writes the cursor or the moments to come. -/
theorem State.placed_applyHostOp (op : HostOp) :
    (s.placed cursor inbox).applyHostOp op = (s.applyHostOp op).placed cursor inbox := by
  cases op with
  | mixerReset | setGlobalVolume => rfl
  | syncOscillators a b =>
    have hvoices : (s.placed cursor inbox).voices = s.voices := rfl
    show (s.placed cursor inbox).syncOscillators a b = (s.syncOscillators a b).placed cursor inbox
    unfold State.syncOscillators
    rw [hvoices]
    cases s.voices[b]? with
    | none => rfl
    | some source => exact s.placed_updateVoice cursor inbox a _
  | setAdsr c k =>
    show (s.placed cursor inbox).setAdsr c k = (s.setAdsr c k).placed cursor inbox
    unfold State.setAdsr
    rw [State.placed_updateVoice, apply_ite (State.placed · cursor inbox)]
    rfl
  | envConfigure k a d l r => exact s.placed_envConfigure cursor inbox k.toNat a d l r
  | _ => exact s.placed_updateVoice cursor inbox _ _

end

section
variable {s : State} {op : HostOp} {rest : List Moment} (hidle : s.tickPhase = .idle)
  (harrives : s.inbox = { reset := false, event := some (.hostOp op) } :: rest)
include hidle harrives

/-- A host operation that arrives between ticks is that operation (60_exceptions.md R248, log 15). -/
theorem step_hostOp : step s = .next (({ s with inbox := rest } : State).applyHostOp op) := by
  rw [step_idle hidle, State.acceptMoment, harrives]
  rfl

/-- A host operation leaves what a move by any length and the operation leave, but for the cursor
(60_exceptions.md R248). -/
theorem step_hostOp_advance (n : Nat) :
    step s = .next { (s.advance n).applyHostOp op with cursor := s.cursor, inbox := rest } :=
  (step_hostOp hidle harrives).trans
    (congrArg _ ((s.advance n).placed_applyHostOp s.cursor rest op))

end

/-- The preset that a voice selects is named by a byte too. -/
theorem envType_setWidth_toNat (type : BitVec 5) : (type.setWidth 8).toNat = type.toNat :=
  BitVec.toNat_setWidth_of_le (by decide)

/-- SetADSRValues of an existing voice is `EnvConfigure` of the preset that the voice selects
(44_tracker.md R225). -/
theorem exec_setADSRValues_hostOp {ch : Nibble} {s : State} {v : Voice} (hv : s.voices[ch.toNat]? = some v)
    (a d : Word) (l : Byte) (r : Word) :
    exec (.setADSRValues ch a d l r) s =
      .next ((s.advance 8).applyHostOp (.envConfigure (v.env.type.setWidth 8) a d l r)) := by
  rw [exec_setADSRValues, hv, State.applyHostOp, envType_setWidth_toNat]
  rfl

/-- There is no preset 0 and none above P to configure (42_envelope.md R144). -/
theorem State.envConfigure_presets_beyond {s : State} {k : Nat} (h : k = 0 ∨ s.numPresets < k) (a d : Word)
    (l : Byte) (r : Word) : (s.envConfigure k a d l r).presets = s.presets :=
  congrArg State.presets (if_pos h)

/-- Settles O57: command and host operation perform one operation beside cursor and inbox; `EnvConfigure` by the
preset table after it; an operation that names a missing voice does nothing. -/
theorem hostOperationsActAsTheCommands : Obligations.HostOperationsActAsTheCommands := by
  refine ⟨fun i op s rest hop hidle hin => ?_, fun ch a d l r v s rest hv hidle hin => ?_,
    fun k a d l r s rest hidle hin => ?_, fun op s rest hidle hin ⟨c, hc, hN⟩ => ?_⟩
  · exact ⟨_, exec_of_hostOpOf hop s, step_hostOp_advance hidle hin i.length⟩
  · exact ⟨_, exec_setADSRValues_hostOp hv a d l r, step_hostOp_advance hidle hin 8⟩
  · refine ⟨_, step_hostOp hidle hin, State.envConfigure_eq .., fun hk => ?_, fun hone hle => ?_, fun j hj => ?_⟩
    · exact State.envConfigure_presets_beyond (s := { s with inbox := rest })
        (hk.imp_left (congrArg BitVec.toNat)) a d l r
    · exact (State.envConfigure_getElem? ..).trans (if_pos ⟨by omega, Nat.sub_one_lt_of_le hone hle⟩)
    · exact (State.envConfigure_getElem? ..).trans (if_neg fun ⟨hkj, _⟩ => hj hkj.symm)
  · exact (step_hostOp hidle hin).trans (congrArg _ (State.applyHostOp_beyond hc hN))

end Sys2Proof.Machine
end

section
/-! Proofs about the ticks after a Reset: a machine at its reset values synthesises a 0 and stays as it is, so that
until the first burst only the tempo clock's counter moves (70_reset_and_hazards.md R273). -/

namespace Sys2Proof.Machine

/-- A run goes on from the state that its first part answers. -/
theorem run_add_next (M : Host.Core) {s t : M.State} {m : Nat} (n : Nat) (h : M.run m s = .next t) :
    M.run (m + n) s = M.run n t := by
  induction m generalizing s with
  | zero =>
    cases (run_zero M s).symm.trans h
    rw [Nat.zero_add]
  | succ m ih =>
    rw [Nat.succ_add]
    cases hstep : M.step s with
    | next u => exact (run_succ_next M (m + n) hstep).trans (ih ((run_succ_next M m hstep).symm.trans h))
    | fault r => cases (run_succ_fault M m hstep).symm.trans h
    | refused r => cases (run_succ_refused M m hstep).symm.trans h

/-- One step of the machine is a run of one step. -/
theorem run_one {s t : State} (h : step s = .next t) : Host.Core.run Sys2Proof.core 1 s = .next t :=
  (run_succ_next Sys2Proof.core 0 h).trans (run_zero Sys2Proof.core t)

/-! ### A synthesis at the reset values -/

/-- A synthesis does not move a voice at its reset values: its tuning word is 0 and its envelope bypassed
(10_state.md R33, 42_envelope.md R139). -/
theorem Voice.atReset_synthesised (m : WaveMap) (presets : List Preset) :
    { oscAdvance (Voice.atReset m) with env := (envSample presets (Voice.atReset m).env).2 } = Voice.atReset m :=
  rfl

section
variable {s : State} {n : Nat} (hvoices : s.voices = List.replicate n (Voice.atReset s.params.waveMap))
include hvoices

theorem State.waveformsDefined_of_atReset : s.WaveformsDefined := fun v hv => by
  rw [hvoices] at hv
  rw [List.eq_of_mem_replicate hv]
  exact List.mem_map_of_mem Waveform.none.mem_all

/-- No voice at its reset values is a Noise voice, so the generator stands still (41_oscillator.md R117). -/
theorem noiseBefore_of_atReset (hmap : s.params.waveMap.Injective) (c : Nat) : noiseBefore s c = s.noise := by
  have hnone : s.params.waveMap.none ≠ s.params.waveMap.noise := fun h =>
    Waveform.noConfusion (List.inj_on_of_nodup_map hmap Waveform.none.mem_all Waveform.noise.mem_all h)
  rw [noiseBefore, hvoices, List.take_replicate, List.filter_replicate_of_neg (by simpa [Voice.atReset] using hnone)]
  rfl

/-- Voices at their reset values under global volume 0 synthesise a 0, and nothing else changes. -/
theorem step_synth_atReset (hphase : s.tickPhase = .synth) (hmap : s.params.waveMap.Injective)
    (hglobal : s.globalVolume = 0#8) : step s = .next { s with
      tickPhase := .idle
      outputs := .sample 0#8 :: s.outputs } := by
  have hemit : mixOutput s.params s.numVoices s.globalVolume (accumulator s) = 0#8 :=
    (scale_eq_zero_iff ..).mpr (.inr hglobal)
  rw [step_synth_defined hphase hmap (State.waveformsDefined_of_atReset hvoices), noiseBefore_of_atReset hvoices hmap,
    hemit, hvoices, List.map_replicate, Voice.atReset_synthesised]

end

/-! ### The ticks before the first burst -/

/-- The machine after a Reset and `j` sample ticks without a burst (70_reset_and_hazards.md R273). -/
def State.resetThenSilent (s : State) (j : Nat) : State :=
  { s.hardReset with
    tempo := { compare := s.params.tempoDefaultCompare, counter := BitVec.ofNat 32 j }
    outputs := List.replicate j (.sample 0#8) ++ s.outputs }

theorem State.resetThenSilent_voices (s : State) (j : Nat) :
    (s.resetThenSilent j).voices = List.replicate s.numVoices (Voice.atReset s.params.waveMap) :=
  congrArg State.voices s.hardReset_eq

/-- The counter reads `j + 1` after the next call: it has not passed the compare value, so it cannot overflow
(40_subtimer.md R105). -/
theorem State.resetThenSilent_nextCounter {s : State} {j : Nat}
    (hj : j < max 1 s.params.tempoDefaultCompare.toNat) :
    ((s.resetThenSilent j).tempo.counter + 1#32).toNat = j + 1 := by
  have hfit := s.params.tempoDefaultCompare.isLt
  rw [State.resetThenSilent, ← BitVec.ofNat_add, BitVec.toNat_ofNat]
  omega

section
variable {s : State} {j : Nat} (hinbox : s.inbox = []) (hN : 1 ≤ s.numVoices)
include hinbox hN

/-- The next SampleTick arrives by itself (log 15), and its step is that of the tempo clock. -/
theorem State.resetThenSilent_begins (hj : j < max 1 s.params.tempoDefaultCompare.toNat) :
    (s.params.tempoDefaultCompare.toNat ≤ j + 1 →
      step (s.resetThenSilent j) = .next { s.resetThenSilent j with
        tempo := { compare := s.params.tempoDefaultCompare, counter := 0#32 }
        tickPhase := .burst
        slots := s.numVoices }) ∧
    (j + 1 < s.params.tempoDefaultCompare.toNat →
      step (s.resetThenSilent j) = .next { s.resetThenSilent j with
        tempo := { compare := s.params.tempoDefaultCompare, counter := BitVec.ofNat 32 (j + 1) }
        tickPhase := .synth }) := by
  have hvoices : (s.resetThenSilent j).numVoices = s.numVoices := by
    rw [State.numVoices, s.resetThenSilent_voices, List.length_replicate]
  have hin : (s.resetThenSilent j).inbox = [] := hinbox
  have hcursor : (if (s.resetThenSilent j).streamLen ≤ (s.resetThenSilent j).cursor.toNat then 0#16
      else (s.resetThenSilent j).cursor) = (s.resetThenSilent j).cursor := ite_self _
  have hbegins := sampleTickBeginsWithTheTempoClock (s.resetThenSilent j) [] rfl (.inl ⟨hin, rfl⟩) rfl
    (hvoices ▸ hN)
  rw [State.resetThenSilent_nextCounter hj, hvoices, hcursor, ← hin] at hbegins
  rw [BitVec.ofNat_add]
  exact hbegins

/-- Short of the compare value a tick is two steps, the tempo clock's and the synthesis of a 0 (log 1). -/
theorem State.resetThenSilent_tick (hmap : s.params.waveMap.Injective)
    (hj : j + 1 < max 1 s.params.tempoDefaultCompare.toNat) :
    Host.Core.run Sys2Proof.core 2 (s.resetThenSilent j) = .next (s.resetThenSilent (j + 1)) := by
  have hcounts := (State.resetThenSilent_begins hinbox hN (Nat.lt_of_succ_lt hj)).2 (by omega)
  exact (run_add_next Sys2Proof.core 1 (run_one hcounts)).trans
    (run_one (step_synth_atReset (s.resetThenSilent_voices j) rfl hmap rfl))

/-- As many ticks as stay short of the compare value, by induction on the ticks. -/
theorem State.run_resetThenSilent (hmap : s.params.waveMap.Injective)
    (hj : j < max 1 s.params.tempoDefaultCompare.toNat) :
    Host.Core.run Sys2Proof.core (2 * j) s.hardReset = .next (s.resetThenSilent j) := by
  induction j with
  | zero => exact run_zero Sys2Proof.core s.hardReset
  | succ j ih =>
    exact (run_add_next Sys2Proof.core 2 (ih (Nat.lt_of_succ_lt hj))).trans
      (State.resetThenSilent_tick hinbox hN hmap hj)

end

/-- Settles O38: the silent ticks one after the other, and the tick whose counter reaches the compare value. -/
theorem ticksAfterResetEmitZeroUntilTheFirstBurst : Obligations.TicksAfterResetEmitZeroUntilTheFirstBurst := by
  intro s j hinbox hN hmap hj
  have hrun := State.run_resetThenSilent hinbox hN hmap hj
  refine ⟨hrun, fun hlast => ?_⟩
  have hfires := (State.resetThenSilent_begins hinbox hN hj).1 (by omega)
  exact ⟨_, (run_add_next Sys2Proof.core 1 hrun).trans (run_one hfires), rfl, rfl, rfl, rfl⟩

end Sys2Proof.Machine
end
